-- ==== Sys2Proof/Word.lean ====
section
/-! DEFINITION. The datapath word (00_scope.md rules R10, R16) and one bus byte lane (20_memory.md rule R74). -/

namespace Sys2Proof

/-- Every datapath value, operand, result, multiplier and entropy draw is 64 bits wide (R10). Bit 0 has weight `2^0`;
all values are unsigned (R16); `+`, `-`, `*` keep the low 64 bits and `<<<`, `>>>` by 64 or more give 0 (R17). -/
abbrev Word := BitVec 64

/-- One byte lane of a 64-bit bus word (R74). -/
abbrev Byte := BitVec 8

/-- `bit(v, j)` of R16. -/
abbrev bit (v : Word) (j : Nat) : Bool := v.getLsbD j

end Sys2Proof
end

