-- ==== Sys2Proof/Config.lean ====
section
/-! DEFINITION. The two OPEN parameters of the spec: the base address (00_scope.md R15, decision D2) and the rows 8..64 of
the mix ROM (R13, decision D18). Both are opaque constants without a body: no proof can use a value of them. -/

namespace Sys2Proof

/-- One row `(s0, s1, s2, m0, m1, im0, im1)` of `MIX_ROM` (44_mix.md R240): three 6-bit shifts, two 64-bit multipliers
and their inverses mod 2^64. -/
structure MixRow where
  s0 : BitVec 6
  s1 : BitVec 6
  s2 : BitVec 6
  m0 : Word
  m1 : Word
  im0 : Word
  im1 : Word
  deriving DecidableEq, Repr

/-- `MIX_ROM_WF` for one row (44_mix.md R243, conditions 1 to 3). -/
abbrev MixRow.WF (r : MixRow) : Prop :=
  (1 ≤ r.s0.toNat ∧ 1 ≤ r.s1.toNat ∧ 1 ≤ r.s2.toNat) ∧
  (bit r.m0 0 = true ∧ bit r.m1 0 = true) ∧
  (r.m0 * r.im0 = 1 ∧ r.m1 * r.im1 = 1)

/-- The row of widths 1..7 (44_mix.md R242): every constant is 1. -/
abbrev MixRow.ones : MixRow := ⟨1, 1, 1, 1, 1, 1, 1⟩

/-- A ROM row together with the proof that it satisfies `MIX_ROM_WF`. A ROM that fails it is a table defect and no
behaviour of the block (R243), so the open parameter ranges over rows of this type. -/
structure WfMixRow where
  row : MixRow := MixRow.ones
  wf : row.WF := by decide
  deriving Inhabited

/-- OPEN parameter `MIX_ROM`, rows 8..64 (R13, R244, D18: `Fin 57 → Row`); index `w - 8` is width `w`. -/
opaque Config.mixRomOpen : Fin 57 → WfMixRow

/-- OPEN parameter behind `BASE` (R15, D2). -/
opaque Config.baseIndex : Nat

/-- `BASE`, aligned to 256 bytes (20_memory.md R71). -/
def Config.base : Nat := 256 * Config.baseIndex

end Sys2Proof
end

