-- ==== Sys2Proof/Syntax.lean ====
section
/-! DEFINITION. The commands of the block: one constructor per row of spec/opcode_table.json (30_encoding.md R104). -/

namespace Sys2Proof

/-- The field S (30_encoding.md R100): 0 selects the forward half of a stage, 1 the inverse half. -/
inductive Select where
  /-- S = 0: `M`, `MULT`. -/
  | fwd
  /-- S = 1: `MINV`, `IMULT`. -/
  | inv
  deriving DecidableEq, Repr

/-- A command. `k` is the field K (a stage index 0..3, or a scratch bank), `row` the field ROW (R100); a command has
exactly the fields that the table of R104 gives it. The data operand of every command is the latched `OPERAND`. -/
inductive Instr where
  /-- 0x00, 46_control.md R310. -/
  | nop
  /-- 0x01, 46_control.md R311. -/
  | clrerr
  /-- 0x10, 45_permutation.md R273. -/
  | init
  /-- 0x11, 45_permutation.md R277. -/
  | next
  /-- 0x12, 45_permutation.md R280. -/
  | undo
  /-- 0x20, 41_modinv.md R145. -/
  | modinv
  /-- 0x30, 44_mix.md R250. -/
  | mixFwd
  /-- 0x31, 44_mix.md R251. -/
  | mixInv
  /-- 0x32, 43_stage_bank.md R220. -/
  | stageFwd (k : BitVec 2)
  /-- 0x33, 43_stage_bank.md R221. -/
  | stageInv (k : BitVec 2)
  /-- 0x34, 43_stage_bank.md R222. -/
  | matvec (k : BitVec 2) (sel : Select)
  /-- 0x35, 45_permutation.md R284. -/
  | passFwd
  /-- 0x36, 45_permutation.md R285. -/
  | passInv
  /-- 0x40, 43_stage_bank.md R223. -/
  | readRow (k : BitVec 2) (sel : Select) (row : BitVec 6)
  /-- 0x41, 43_stage_bank.md R224. -/
  | readMult (k : BitVec 2) (sel : Select)
  /-- 0x42, 44_mix.md R252; `row` is the constant's index. -/
  | readMixc (row : BitVec 6)
  /-- 0x50, 42_gf2_matrix.md R180; `k` is a scratch bank. -/
  | scrWr (k : BitVec 2) (row : BitVec 6)
  /-- 0x51, 42_gf2_matrix.md R181; `k` is a scratch bank. -/
  | scrRd (k : BitVec 2) (row : BitVec 6)
  /-- 0x52, 42_gf2_matrix.md R182. -/
  | matmul
  /-- 0x53, 42_gf2_matrix.md R186. -/
  | genmat
  deriving DecidableEq, Repr

end Sys2Proof
end

