-- ==== Sys2Proof/WellFormed.lean ====
section
/-! DEFINITION. Which commands have fields in the range the command admits whatever the state is: the part of ERR_FIELD
(30_encoding.md R109, R110) that can be read off the command word alone. The field widths themselves (K 2 bits, S 1 bit,
ROW 6 bits, R100) hold by the types of Syntax.lean. -/

namespace Sys2Proof

/-- K names one of the three scratch banks 0..2 (R109: "SCR_WR/SCR_RD with K = 3" is ERR_FIELD). -/
def scratchBankOk (k : BitVec 2) : Bool := k != 3

/-- ROW names one of the seven mix constants 0..6 (R109: "READ_MIXC with ROW > 6" is ERR_FIELD). -/
def mixIndexOk (row : BitVec 6) : Bool := row.toNat ≤ 6

/-- The fields of the command are in range in every state. A command for which this is false still decodes (its word is
well-formed in the sense of R102) and is rejected with ERR_FIELD. -/
def Instr.wellFormed : Instr → Bool
  | .nop => true
  | .clrerr => true
  | .init => true
  | .next => true
  | .undo => true
  | .modinv => true
  | .mixFwd => true
  | .mixInv => true
  | .stageFwd _ => true
  | .stageInv _ => true
  | .matvec _ _ => true
  | .passFwd => true
  | .passInv => true
  | .readRow _ _ _ => true
  | .readMult _ _ => true
  | .readMixc row => mixIndexOk row
  | .scrWr k _ => scratchBankOk k
  | .scrRd k _ => scratchBankOk k
  | .matmul => true
  | .genmat => true

end Sys2Proof
end

