-- ==== Sys2Proof/Decode.lean ====
section
/-! DEFINITION. Decoding a 64-bit command word (30_encoding.md R100 to R107), total and rejecting by name, and after it
the encoder (R116). -/

namespace Sys2Proof

/-- Why the decoder gives no command. -/
inductive DecodeError where
  /-- OP is not in the table of R104 (R106). -/
  | illegal
  /-- OP is legal, but a bit outside OP and the fields it uses is set (R107). -/
  | reserved
  /-- Not the eight byte lanes of one 64-bit word: every command is one 64-bit write (R100, R103). -/
  | badLength
  deriving DecidableEq, Repr

/-- The decoder's answer. -/
inductive Decoded where
  | instr (i : Instr)
  | rejected (e : DecodeError)
  deriving DecidableEq, Repr

/-- Byte lane `k` of a bus word: bits `[8k+7 : 8k]` (20_memory.md R74). -/
def lane (v : Word) (k : Nat) : Byte := v.extractLsb' (8 * k) 8

/-- The eight byte lanes of a word, the lowest address first: little-endian (R74). -/
def lanes (v : Word) : List Byte := (List.range 8).map (lane v)

/-- The word whose little-endian byte lanes are the bytes given, the lowest address first (R74). -/
def wordOfLanes : List Byte → Word
  | [] => 0
  | b :: bs => b.setWidth 64 ||| (wordOfLanes bs <<< 8)

/-- OP = `v[7:0]` (R100). -/
def opField (v : Word) : BitVec 8 := v.extractLsb' 0 8
/-- K = `v[9:8]` (R100, R101). -/
def kField (v : Word) : BitVec 2 := v.extractLsb' 8 2
/-- S = `v[10]` (R100, R101). -/
def sField (v : Word) : Select := if bit v 10 then .inv else .fwd
/-- ROW = `v[21:16]` (R100, R101). -/
def rowField (v : Word) : BitVec 6 := v.extractLsb' 16 6

/-- The bits of the field K (R110, `usedFields`). -/
abbrev kBits : Word := 0x300
/-- The bit of the field S. -/
abbrev sBit : Word := 0x400
/-- The bits of the field ROW. -/
abbrev rowBits : Word := 0x3F0000

/-- A row of the opcode map: the opcode, the bits of the fields it uses (R104) and the command its fields make. -/
structure OpcodeRow where
  mnemonic : String
  op : BitVec 8
  used : Word
  build : BitVec 2 → Select → BitVec 6 → Instr

/-- The 64-bit constant a word of this row matches under the mask (R105). -/
def OpcodeRow.matchWord (r : OpcodeRow) : Word := r.op.setWidth 64
/-- The mask of R105: it "covers OP, the reserved bits and the unused fields" (R102). -/
def OpcodeRow.mask (r : OpcodeRow) : Word := ~~~r.used

/-- Control, PermutationEngine and ModularInverseSolver rows of R104. -/
def opcodeRowsControl : List OpcodeRow :=
  [⟨"NOP", 0x00, 0, fun _ _ _ => .nop⟩,
   ⟨"CLRERR", 0x01, 0, fun _ _ _ => .clrerr⟩,
   ⟨"INIT", 0x10, 0, fun _ _ _ => .init⟩,
   ⟨"NEXT", 0x11, 0, fun _ _ _ => .next⟩,
   ⟨"UNDO", 0x12, 0, fun _ _ _ => .undo⟩,
   ⟨"MODINV", 0x20, 0, fun _ _ _ => .modinv⟩]

/-- Pipeline-unit rows of R104. -/
def opcodeRowsPipeline : List OpcodeRow :=
  [⟨"MIX_FWD", 0x30, 0, fun _ _ _ => .mixFwd⟩,
   ⟨"MIX_INV", 0x31, 0, fun _ _ _ => .mixInv⟩,
   ⟨"STAGE_FWD", 0x32, kBits, fun k _ _ => .stageFwd k⟩,
   ⟨"STAGE_INV", 0x33, kBits, fun k _ _ => .stageInv k⟩,
   ⟨"MATVEC", 0x34, kBits ||| sBit, fun k s _ => .matvec k s⟩,
   ⟨"PASS_FWD", 0x35, 0, fun _ _ _ => .passFwd⟩,
   ⟨"PASS_INV", 0x36, 0, fun _ _ _ => .passInv⟩]

/-- Readback and MatrixOps rows of R104. -/
def opcodeRowsMatrix : List OpcodeRow :=
  [⟨"READ_ROW", 0x40, kBits ||| sBit ||| rowBits, fun k s row => .readRow k s row⟩,
   ⟨"READ_MULT", 0x41, kBits ||| sBit, fun k s _ => .readMult k s⟩,
   ⟨"READ_MIXC", 0x42, rowBits, fun _ _ row => .readMixc row⟩,
   ⟨"SCR_WR", 0x50, kBits ||| rowBits, fun k _ row => .scrWr k row⟩,
   ⟨"SCR_RD", 0x51, kBits ||| rowBits, fun k _ row => .scrRd k row⟩,
   ⟨"MATMUL", 0x52, 0, fun _ _ _ => .matmul⟩,
   ⟨"GENMAT", 0x53, 0, fun _ _ _ => .genmat⟩]

/-- The opcode map (R104). -/
def opcodeTable : List OpcodeRow := opcodeRowsControl ++ opcodeRowsPipeline ++ opcodeRowsMatrix

/-- The row of an opcode; none where the opcode is illegal (R106). -/
def opcodeRow? (op : BitVec 8) : Option OpcodeRow := opcodeTable.find? fun r => r.op == op

/-- The first two checks of R110: an OP outside the table is illegal, and a legal OP with a bit set outside OP and its
used fields is reserved. Otherwise the command is read from the fields. -/
def decodeWord (v : Word) : Decoded :=
  match opcodeRow? (opField v) with
  | none => .rejected .illegal
  | some r =>
    if v &&& ~~~(0xFF ||| r.used) ≠ 0 then .rejected .reserved
    else .instr (r.build (kField v) (sField v) (rowField v))

/-- Decoding the bytes of a CMD write, the lowest address first. -/
def decodeBytes (bs : List Byte) : Decoded :=
  if bs.length = 8 then decodeWord (wordOfLanes bs) else .rejected .badLength

/-- The bytes of a word of `nbits` bits as the bus stores them, every bit above `nbits` being 0, padded to the eight
bytes of a command word. -/
def storedBytes (nbits w : Nat) : List Byte :=
  (List.range (max 8 (nbits / 8))).map fun k => BitVec.ofNat 8 ((w % 2 ^ nbits) >>> (8 * k))

/-- The host's decoding question: the command read from the word whose bits are `w`. -/
def decodeTableWord (nbits w : Nat) : Option Instr :=
  match decodeBytes (storedBytes nbits w) with
  | .instr i => some i
  | .rejected _ => none

/-- S as a bit (R100). -/
def Select.toBit : Select → BitVec 1
  | .fwd => 0
  | .inv => 1

/-- The command word constructor `word(OP, K, S, ROW)` of R116. -/
def commandWord (op : BitVec 8) (k : BitVec 2) (sel : Select) (row : BitVec 6) : Word :=
  op.setWidth 64 ||| (k.setWidth 64 <<< 8) ||| (sel.toBit.setWidth 64 <<< 10) ||| (row.setWidth 64 <<< 16)

/-- The word of a command: its opcode from R104 with its fields, omitted fields 0 (R114, R116). -/
def encode : Instr → Word
  | .nop => commandWord 0x00 0 .fwd 0
  | .clrerr => commandWord 0x01 0 .fwd 0
  | .init => commandWord 0x10 0 .fwd 0
  | .next => commandWord 0x11 0 .fwd 0
  | .undo => commandWord 0x12 0 .fwd 0
  | .modinv => commandWord 0x20 0 .fwd 0
  | .mixFwd => commandWord 0x30 0 .fwd 0
  | .mixInv => commandWord 0x31 0 .fwd 0
  | .stageFwd k => commandWord 0x32 k .fwd 0
  | .stageInv k => commandWord 0x33 k .fwd 0
  | .matvec k sel => commandWord 0x34 k sel 0
  | .passFwd => commandWord 0x35 0 .fwd 0
  | .passInv => commandWord 0x36 0 .fwd 0
  | .readRow k sel row => commandWord 0x40 k sel row
  | .readMult k sel => commandWord 0x41 k sel 0
  | .readMixc row => commandWord 0x42 0 .fwd row
  | .scrWr k row => commandWord 0x50 k .fwd row
  | .scrRd k row => commandWord 0x51 k .fwd row
  | .matmul => commandWord 0x52 0 .fwd 0
  | .genmat => commandWord 0x53 0 .fwd 0

/-- The byte lanes of a command's word. -/
def encodeBytes (i : Instr) : List Byte := lanes (encode i)

end Sys2Proof
end

