-- ==== Sys2Proof/Machine/State.lean ====
section
/-! DEFINITION. The state of the block as plain data (10_state.md), the inputs its environment gives it, the reasons a
step can stop, and the state after reset (R49). -/

namespace Sys2Proof.Machine

open Sys2Proof

/-- The outcome codes that STATUS.ERR can hold (30_encoding.md R109). Codes 0x07 to 0xFF are never written, so no other
value is representable. -/
inductive ErrCode where
  /-- 0x00: the command was accepted and has committed. -/
  | ok
  /-- 0x01 ERR_ILLEGAL: OP not defined. -/
  | illegal
  /-- 0x02 ERR_RESERVED: reserved or unused field bit set. -/
  | reserved
  /-- 0x03 ERR_NOINIT: the command needs READY = 1 and READY = 0. -/
  | noinit
  /-- 0x04 ERR_EVEN: MODINV with an even operand. -/
  | even
  /-- 0x05 ERR_RANGE: UNDO with an operand above MAX. -/
  | range
  /-- 0x06 ERR_FIELD: a field or operand out of range for the command. -/
  | field
  deriving DecidableEq, Repr

/-- The fields of STATUS (R33); the reserved bits have no storage and read 0. -/
structure Status where
  /-- [0]: an accepted command is executing. -/
  busy : Bool
  /-- [1]: the stage bank, mix row, MAX, BITS and POSITION hold a GeneratorState built by INIT. -/
  ready : Bool
  /-- [2]: sticky; a CMD write arrived while BUSY = 1 and was dropped. -/
  ovr : Bool
  /-- [15:8]: the outcome of the last CMD write handled while BUSY = 0. -/
  err : ErrCode
  deriving DecidableEq, Repr

/-- A bit-matrix (00_scope.md R19): 64 rows; `bit(X[i], j)` is the entry `(i, j)`. -/
abbrev BitMatrix := Vector Word 64

/-- One entry `STG[k]` of the stage bank (R40): a (Stage, InverseStage) pair. -/
structure Stage where
  m : BitMatrix
  minv : BitMatrix
  mult : Word
  imult : Word
  deriving DecidableEq, Repr

/-- The command latch's contents `PEND = (cmd_word, operand)` (R44). -/
structure Pending where
  word : Word
  operand : Word
  deriving DecidableEq, Repr

/-- The nine host-visible registers (R30). -/
inductive Reg where
  | id | cmd | status | operand | result | max | position | bits | count
  deriving DecidableEq, Repr

/-- The width of a bus access in bytes (20_memory.md R72, R73). -/
inductive Width where
  | w1 | w2 | w4 | w8
  deriving DecidableEq, Repr

/-- One access of the host to the register window at byte offset `off` from BASE: `BusRead(off, n)` or
`BusWrite(off, n, v)` (00_scope.md R20). The window has 256 bytes, so an offset has 8 bits (R70). -/
inductive Access where
  | read (off : BitVec 8) (width : Width)
  | write (off : BitVec 8) (width : Width) (v : Word)
  deriving DecidableEq, Repr

/-- What the bus transaction gives the host back (R72, R73). -/
inductive BusResponse where
  /-- A read's data. -/
  | data (v : Word)
  /-- A write was accepted. -/
  | ack
  /-- The error response of R73; a read gets no data. -/
  | error
  deriving DecidableEq, Repr

/-- What moves next: the environment's events in the order they happen, and the turns it leaves to the block agent
(00_scope.md R25). -/
inductive Input where
  /-- The host makes one register access. -/
  | access (a : Access)
  /-- The host's `wait` (30_encoding.md R114): it reads STATUS until bit 0 is 0. -/
  | wait
  /-- The entropy source offers one more word at the port (20_memory.md R80). -/
  | offer (w : Word)
  /-- `rst` is asserted and released (70_reset_and_hazards.md R350). -/
  | rst
  /-- The block agent takes a step (30_encoding.md R112). -/
  | block
  deriving DecidableEq, Repr

/-- The state of the block and of its inputs. -/
structure State where
  /-- STATUS (R33). -/
  status : Status
  /-- OPERAND (R34). -/
  operand : Word
  /-- RESULT (R35). -/
  result : Word
  /-- MAX (R36). -/
  max : Word
  /-- POSITION (R37). -/
  position : Word
  /-- BITS[6:0] (R38); the bits above read 0. -/
  bits : BitVec 7
  /-- COUNT (R39). -/
  count : Word
  /-- The stage bank `STG[0..3]` (R40). -/
  bank : Vector Stage 4
  /-- The scratch banks `SCR[0..2]` = SA, SB, SC (R43). -/
  scr : Vector BitMatrix 3
  /-- The command latch PEND (R44); none is 'empty'. -/
  pend : Option Pending
  /-- The draws the executing command has already taken from the port (R80, R83, R350), oldest first. -/
  taken : List Word
  /-- The words the entropy source has on offer at the port and the block has not taken, oldest first (R14, R80); none
  on offer is `ent_valid = 0`. The model's own field for the input. DESIGN CHOICE (log 5). -/
  entropy : List Word
  /-- The events of the environment still to come, first one first. The model's own field for the input. DESIGN CHOICE (log 5). -/
  inputs : List Input
  /-- The response of the bus to the host's last access (R72, R73). The model's own field for the output. DESIGN CHOICE (log 6). -/
  resp : Option BusResponse
  deriving DecidableEq, Repr

/-- Why a step stops. The spec gives the block no fault: rejections, dropped commands, bus errors and starved draws are
all steps with a next state (60_exceptions.md R327). -/
inductive Fault where
  /-- Raised by the meaning of a command when it is run while the command latch is empty. `step` never does so: it runs
  a meaning only for the command it reads from a full latch. Safe: the model stops where the hardware has no such event. -/
  | latchEmpty
  deriving DecidableEq, Repr

/-- Why a command has no meaning in the model. -/
inductive Refusal where
  /-- Raised by the arm of `exec` of an instruction that is not modelled yet, under its mnemonic; no arm does so. Safe. -/
  | notModelled (mnemonic : String)
  deriving DecidableEq, Repr

/-- What a step answers. -/
abbrev Out := Host.Outcome State Fault Refusal

/-- The matrix with all 64 rows 0. -/
abbrev BitMatrix.zero : BitMatrix := Vector.replicate 64 0

/-- DESIGN CHOICE (log 2; unsafe): what a stage holds after reset, where R49 says "unspecified, unobservable while
READY = 0". -/
def Stage.unwritten : Stage := ⟨BitMatrix.zero, BitMatrix.zero, 0, 0⟩

/-- The machine right after reset (R49): every register 0, the scratch banks 0, the latch empty, no draw taken; no word
on offer, no event to come and no bus access made. -/
def State.reset : State where
  status := ⟨false, false, false, .ok⟩
  operand := 0
  result := 0
  max := 0
  position := 0
  bits := 0
  count := 0
  bank := Vector.replicate 4 Stage.unwritten
  scr := Vector.replicate 3 BitMatrix.zero
  pend := none
  taken := []
  entropy := []
  inputs := []
  resp := none

end Sys2Proof.Machine
end

