-- ==== Sys2Proof/Machine/Operands.lean ====
section
/-! DEFINITION. Bit and matrix notation of 00_scope.md R18, R19 and every operand form of a command: the latched operand
masked to the width, the field K as a stage or scratch bank, S as the half of a stage, ROW as a row. -/

namespace Sys2Proof.Machine

open Sys2Proof

/-- `mask(n) = 2^n - 1` (R18). -/
def mask (n : Nat) : Word := BitVec.ofNat 64 (2 ^ n - 1)

/-- `e(i) = 1 << i` (R18). -/
def unitVec (i : Nat) : Word := 1#64 <<< i

/-- Row `j` of a bit-matrix; there are 64 rows (R19). -/
def rowAt (x : BitMatrix) (j : Nat) : Word := if h : j < 64 then x[j] else 0

/-- `I_n` (R19). -/
def identity (n : Nat) : BitMatrix := Vector.ofFn fun i => if i.val < n then unitVec i.val else 0

/-- A bit-matrix well-formed of size `n` (R19): no row has a bit at or above `n`, and rows at or above `n` are 0. -/
abbrev BitMatrix.wfSize (x : BitMatrix) (n : Nat) : Prop :=
  ∀ i : Fin 64, x[i] &&& ~~~(mask n) = 0 ∧ (n ≤ i.val → x[i] = 0)

/-- The width in use, BITS as a number (10_state.md R38). -/
def State.width (s : State) : Nat := s.bits.toNat

/-- `z0 = PEND.operand & mask(BITS)`: the operand form of the pipeline commands (43_stage_bank.md §4, 44_mix.md R250). -/
def State.maskOperand (s : State) (x : Word) : Word := x &&& mask s.width

/-- `STG[K]`: K is two bits and the bank has four stages (30_encoding.md R100). -/
def State.stage (s : State) (k : BitVec 2) : Stage := s.bank[k.toFin]

/-- `S = 0 ? STG[K].M : STG[K].MINV` (43_stage_bank.md R222, R223). -/
def Stage.matrix (g : Stage) : Select → BitMatrix
  | .fwd => g.m
  | .inv => g.minv

/-- `S = 0 ? STG[K].MULT : STG[K].IMULT` (43_stage_bank.md R224). -/
def Stage.multiplier (g : Stage) : Select → Word
  | .fwd => g.mult
  | .inv => g.imult

/-- Scratch bank `b`; there are three, 0 = SA, 1 = SB, 2 = SC (10_state.md R43). -/
def State.scratch (s : State) (b : Nat) : BitMatrix := if h : b < 3 then s.scr[b] else BitMatrix.zero

/-- `SCR[b] <- x`, all 64 rows. -/
def State.setScratch (s : State) (b : Nat) (x : BitMatrix) : State := { s with scr := s.scr.setIfInBounds b x }

/-- `SCR[b][row] <- v` (42_gf2_matrix.md R180). -/
def State.setScratchRow (s : State) (b : Nat) (row : BitVec 6) (v : Word) : State :=
  s.setScratch b ((s.scratch b).set row.toNat v (by have := row.isLt; omega))

/-- The `XOR over j in {j : 0 <= j < n and bit(sel, j) = 1} of term(j)` that the matrix rules use (00_scope.md R21). -/
def xorOver (sel : Word) (term : Nat → Word) : Nat → Word
  | 0 => 0
  | j + 1 => xorOver sel term j ^^^ (if bit sel j then term j else 0)

end Sys2Proof.Machine
end

