-- ==== Sys2Proof/Machine/Flags.lean ====
section
/-! DEFINITION. The STATUS register: its word (10_state.md R33), the outcome codes (30_encoding.md R109), and the checks
that decide the code of a rejection (R110, 60_exceptions.md R323). The block has no other flag (R46). -/

namespace Sys2Proof.Machine

open Sys2Proof

/-- The 8-bit outcome code (R109). -/
def ErrCode.code : ErrCode → BitVec 8
  | .ok => 0x00
  | .illegal => 0x01
  | .reserved => 0x02
  | .noinit => 0x03
  | .even => 0x04
  | .range => 0x05
  | .field => 0x06

/-- STATUS as the host reads it (R33): BUSY at [0], READY at [1], OVR at [2], ERR at [15:8], every other bit 0. -/
def Status.toWord (st : Status) : Word :=
  (BitVec.ofBool st.busy).setWidth 64 ||| ((BitVec.ofBool st.ready).setWidth 64 <<< 1) |||
    ((BitVec.ofBool st.ovr).setWidth 64 <<< 2) ||| (st.err.code.setWidth 64 <<< 8)

/-- The code of a rejection by the decoder (R106, R107). A bus write always delivers eight bytes (20_memory.md R72), so
`badLength` arises for no CMD write. -/
def decodeErrCode : DecodeError → ErrCode
  | .illegal => .illegal
  | .reserved => .reserved
  | .badLength => .illegal

/-- The column "needs READY" of R104. -/
def needsReady : Instr → Bool
  | .nop => false
  | .clrerr => false
  | .init => false
  | .next => true
  | .undo => true
  | .modinv => false
  | .mixFwd => true
  | .mixInv => true
  | .stageFwd _ => true
  | .stageInv _ => true
  | .matvec _ _ => true
  | .passFwd => true
  | .passInv => true
  | .readRow _ _ _ => true
  | .readMult _ _ => true
  | .readMixc _ => true
  | .scrWr _ _ => false
  | .scrRd _ _ => false
  | .matmul => false
  | .genmat => false

/-- `fieldOutOfRange` of R110: ROW of READ_ROW against BITS, and the fields that are out of range in every state. -/
def fieldOutOfRange (i : Instr) (s : State) : Bool :=
  match i with
  | .readRow _ _ row => s.width ≤ row.toNat
  | i => !i.wellFormed

/-- `1 <= n <= 64`, what MATMUL and GENMAT require of their operand (R110). -/
def sizeOk (x : Word) : Bool := 1 ≤ x.toNat && x.toNat ≤ 64

/-- The operand checks of R110 for a command with operand `x`: ERR_EVEN, ERR_RANGE and the operand's ERR_FIELD. Each
command has at most one. -/
def operandCheck (i : Instr) (x : Word) (s : State) : Option ErrCode :=
  match i with
  | .modinv => if bit x 0 then none else some .even
  | .undo => if s.max < x then some .range else none
  | .matmul => if sizeOk x then none else some .field
  | .genmat => if sizeOk x then none else some .field
  | _ => none

/-- The checks of R110 after the decoder's, in its order; the first that fails decides the code. None: the command is
accepted. -/
def check (i : Instr) (x : Word) (s : State) : Option ErrCode :=
  if needsReady i && !s.status.ready then some .noinit
  else if fieldOutOfRange i s then some .field
  else operandCheck i x s

end Sys2Proof.Machine
end

