-- ==== Sys2Proof/Machine/Ops.lean ====
section
/-! DEFINITION. The shared operations: rejection (the block's only error mechanism; it has no trap entry and no return
from one, 60_exceptions.md R320, R326), acceptance, commit, entropy draws, reset, register reads and writes, bus
accesses, and reading the command from the latch. -/

namespace Sys2Proof.Machine

open Sys2Proof

/-! ### Rejection, acceptance, commit -/

/-- `reject E`: "sets STATUS.ERR <- E and changes nothing else" (30_encoding.md R110; R321). -/
def State.reject (s : State) (e : ErrCode) : State := { s with status := { s.status with err := e } }

/-- `accept(v)`: latches `PEND <- (v, OPERAND)` and sets BUSY; "changes nothing else" (R111). -/
def State.accept (s : State) (v : Word) : State :=
  { s with pend := some ⟨v, s.operand⟩, status := { s.status with busy := true } }

/-- `commit`, with the work count the command writes: COUNT, ERR <- 0, BUSY <- 0, PEND emptied (R112). The results that
the command's rule names are already in the state given. -/
def State.commit (s : State) (count : Word) : State :=
  { s with count := count, status := { s.status with err := .ok, busy := false }, pend := none }

/-- `RESULT <- v`. -/
def State.setResult (s : State) (v : Word) : State := { s with result := v }

/-- DESIGN CHOICE (log 3): a latched command whose checks do not hold (no acceptance leaves one) ends as a rejection: the
code is written, BUSY is cleared and the latch is emptied with the draws taken for it. -/
def State.abort (s : State) (e : ErrCode) : State :=
  { s with status := { s.status with err := e, busy := false }, pend := none, taken := [] }

/-- A CMD write of `v`: dropped with OVR set while BUSY (70_reset_and_hazards.md R360); otherwise decoded, checked in the
order of R110 against the live OPERAND, and rejected or accepted. -/
def State.issue (s : State) (v : Word) : State :=
  if s.status.busy then { s with status := { s.status with ovr := true } }
  else
    match decodeWord v with
    | .rejected e => s.reject (decodeErrCode e)
    | .instr i =>
      match check i s.operand s with
      | some e => s.reject e
      | none => s.accept v

/-- The frame of every meaning: the command `i` runs on the operand latched with it, `PEND.operand` (R111). -/
def runLatched (i : Instr) (s : State) (body : Word → Out) : Out :=
  match s.pend with
  | none => .fault .latchEmpty
  | some p =>
    match check i p.operand s with
    | some e => .next (s.abort e)
    | none => body p.operand

/-! ### Entropy -/

/-- The executing command needs `need` draws in all: it takes words from the port, oldest first, until it has them
(20_memory.md R80, R82), and goes on with the draws in the order taken. While the source withholds a word the command
blocks with BUSY = 1, keeping the draws it has (R83). DEDUCED (log 7): one step takes all words on offer up to the
need. -/
def withDraws (need : Nat) (s : State) (body : List Word → State → Out) : Out :=
  if s.taken.length + s.entropy.length < need then
    .next { s with taken := s.taken ++ s.entropy, entropy := [] }
  else
    body ((s.taken ++ s.entropy).take need)
      { s with taken := [], entropy := s.entropy.drop (need - s.taken.length) }

/-- Draw number `d` of a command, counted from 0. -/
def drawAt (ds : List Word) (d : Nat) : Word := ds.getD d 0

/-- The entropy source offers one more word (R80). -/
def State.offer (s : State) (w : Word) : State := { s with entropy := s.entropy ++ [w] }

/-! ### Reset -/

/-- `rst` (70_reset_and_hazards.md R350): every piece of the block's state takes its value of 10_state.md R49; an
executing command is aborted and the draws it had taken are lost. The environment's inputs are not the block's state.
DESIGN CHOICE (log 10): one event is the whole reset. -/
def State.applyReset (s : State) : State := { State.reset with entropy := s.entropy, inputs := s.inputs }

/-! ### Registers and the bus -/

/-- The constant of ID (10_state.md R31). -/
def idValue : Word := 0x5052504700000001

/-- The byte offset of a register (R30). -/
def Reg.offset : Reg → BitVec 8
  | .id => 0x00
  | .cmd => 0x08
  | .status => 0x10
  | .operand => 0x18
  | .result => 0x20
  | .max => 0x28
  | .position => 0x30
  | .bits => 0x38
  | .count => 0x40

/-- The nine registers in offset order. -/
def Reg.all : List Reg := [.id, .cmd, .status, .operand, .result, .max, .position, .bits, .count]

/-- The register at an offset; none at a reserved one (R30, 20_memory.md R76). -/
def Reg.ofOffset (off : BitVec 8) : Option Reg := Reg.all.find? fun r => r.offset == off

/-- What a read of a register returns (R76). -/
def State.readReg (s : State) : Reg → Word
  | .id => idValue
  | .cmd => 0
  | .status => s.status.toWord
  | .operand => s.operand
  | .result => s.result
  | .max => s.max
  | .position => s.position
  | .bits => s.bits.setWidth 64
  | .count => s.count

/-- What a write to a register does (R76): CMD issues a command, OPERAND is written, the others ignore it. -/
def State.writeReg (s : State) (v : Word) : Reg → State
  | .id => s
  | .cmd => s.issue v
  | .status => s
  | .operand => { s with operand := v }
  | .result => s
  | .max => s
  | .position => s
  | .bits => s
  | .count => s

/-- The window supports an access exactly when it is 64 bits wide at an 8-byte-aligned offset (R72, R73). -/
def accessOk (off : BitVec 8) (width : Width) : Bool := width == .w8 && off.extractLsb' 0 3 == 0

/-- One access of the host (R72, R73, R76). An unsupported access gets the error response and changes nothing; reserved
offsets read 0 and ignore writes; a read has no side effect (R77). -/
def State.busAccess (s : State) : Access → State
  | .read off width =>
    if accessOk off width then
      { s with resp := some (.data (match Reg.ofOffset off with | some r => s.readReg r | none => 0)) }
    else { s with resp := some .error }
  | .write off width v =>
    if accessOk off width then
      { (match Reg.ofOffset off with | some r => s.writeReg v r | none => s) with resp := some .ack }
    else { s with resp := some .error }

/-- The offset that a host address selects in the window `BASE .. BASE+0xFF`; none outside it, where decoding is the
platform's concern (R71). -/
def windowOffset (a : Nat) : Option (BitVec 8) :=
  if Config.base ≤ a ∧ a < Config.base + 256 then some (BitVec.ofNat 8 (a - Config.base)) else none

/-- A read at a host address (R71, R72); none where the address is outside the window. -/
def readAt (a : Nat) (width : Width) : Option Access := (windowOffset a).map fun off => .read off width

/-- A write at a host address (R71, R72); none where the address is outside the window. -/
def writeAt (a : Nat) (width : Width) (v : Word) : Option Access :=
  (windowOffset a).map fun off => .write off width v

/-- The read of STATUS with which the host polls (30_encoding.md R114). -/
def pollAccess : Access := .read (Reg.offset .status) .w8

/-- One round of the host's `wait`: it reads STATUS; while BUSY is 1 the block agent gets a turn and the host polls again
(R114). DESIGN CHOICE (log 4): the block agent's turn comes between two polls. -/
def State.pollRound (s : State) : State :=
  let s' := s.busAccess pollAccess
  if s.status.busy then { s' with inputs := .block :: .wait :: s.inputs } else s'

/-! ### The latched command -/

/-- The command the block agent is to execute: `op`, K, S and ROW are read from `PEND.v` (R111). None: it is idle. -/
def State.fetch (s : State) : Option Decoded := s.pend.map fun p => decodeWord p.word

end Sys2Proof.Machine
end

