-- ==== Sys2Proof/Machine/Control.lean ====
section
/-! DEFINITION. The control commands (46_control.md). -/

namespace Sys2Proof.Machine

open Sys2Proof

/-- NOP (R310): `COUNT <- 0`; OVR is not cleared. -/
def execNop (s : State) : Out := runLatched .nop s fun _ => .next (s.commit 0)

/-- `STATUS.OVR <- 0`. DEDUCED (log 8): at the commit, so also an OVR set while CLRERR was executing. -/
def State.clearOvr (s : State) : State := { s with status := { s.status with ovr := false } }

/-- CLRERR (R311): `STATUS.OVR <- 0`, `COUNT <- 0`. -/
def execClrerr (s : State) : Out := runLatched .clrerr s fun _ => .next (s.clearOvr.commit 0)

end Sys2Proof.Machine
end

