-- ==== Sys2Proof/Machine/Mix.lean ====
section
/-! DEFINITION. The MixFinalizer: the constant ROM, the forward and the inverse mix, and the mix commands (44_mix.md). -/

namespace Sys2Proof.Machine

open Sys2Proof

/-- `MIX_ROM[w]` (R240, R241): rows 1..7 are fixed (R242), rows 8..64 are the open parameter (R244). The ROM has no row
for any other width; BITS is 0 only before an INIT, when no command can read the row (10_state.md R38, R252), and there
this function gives the row of the widths below 8. DESIGN CHOICE (log 1). -/
def mixRow (w : Nat) : MixRow :=
  if h : 8 ≤ w ∧ w ≤ 64 then (Config.mixRomOpen ⟨w - 8, by omega⟩).row else MixRow.ones

/-- `xs(z, s) = z ^ (z >> s)` (R246). -/
def xs (z : Word) (s : Nat) : Word := z ^^^ (z >>> s)

/-- The loop of R247 at shift `t`. -/
def unxsLoop (n : Nat) : (fuel : Nat) → (t : Nat) → (y : Word) → Word
  | 0, _, y => y
  | fuel + 1, t, y => if t < n then unxsLoop n fuel (t + t) (y ^^^ (y >>> t)) else y

/-- `unxs(y, s, n)` (R247). For `s >= 1` and `n <= 64` the shift doubles past `n` within 6 rounds, so 7 rounds of fuel
reach the loop's own end. DEDUCED (log 9). -/
def unxs (y : Word) (s n : Nat) : Word := unxsLoop n 7 s y

/-- `apply(z, n)` with the ROM row given (R245). -/
def mixApply (r : MixRow) (n : Nat) (z : Word) : Word :=
  let z := z &&& mask n
  let z := xs z r.s0.toNat
  let z := (z * r.m0) &&& mask n
  let z := xs z r.s1.toNat
  let z := (z * r.m1) &&& mask n
  xs z r.s2.toNat

/-- `unapply(z, n)` with the ROM row given (R249). -/
def mixUnapply (r : MixRow) (n : Nat) (z : Word) : Word :=
  let z := z &&& mask n
  let z := unxs z r.s2.toNat n
  let z := (z * r.im1) &&& mask n
  let z := unxs z r.s1.toNat n
  let z := (z * r.im0) &&& mask n
  unxs z r.s0.toNat n

/-- The constant of index `i` of a row, zero-extended, in the order s0, s1, s2, m0, m1, im0, im1 (R252). Indices above 6
are refused with ERR_FIELD before they get here. -/
def mixConst (r : MixRow) (i : Nat) : Word :=
  match i with
  | 0 => r.s0.setWidth 64
  | 1 => r.s1.setWidth 64
  | 2 => r.s2.setWidth 64
  | 3 => r.m0
  | 4 => r.m1
  | 5 => r.im0
  | 6 => r.im1
  | _ => 0

/-- MIX_FWD (R250): `RESULT <- apply(z0, BITS)`; `COUNT <- 0`. -/
def execMixFwd (s : State) : Out :=
  runLatched .mixFwd s fun x =>
    .next ((s.setResult (mixApply (mixRow s.width) s.width (s.maskOperand x))).commit 0)

/-- MIX_INV (R251): `RESULT <- unapply(z0, BITS)`; `COUNT <- 0`. -/
def execMixInv (s : State) : Out :=
  runLatched .mixInv s fun x =>
    .next ((s.setResult (mixUnapply (mixRow s.width) s.width (s.maskOperand x))).commit 0)

/-- READ_MIXC (R252): `RESULT <- zext_64(MIX_ROM[BITS][i])`; `COUNT <- 0`. -/
def execReadMixc (row : BitVec 6) (s : State) : Out :=
  runLatched (.readMixc row) s fun _ =>
    .next ((s.setResult (mixConst (mixRow s.width) row.toNat)).commit 0)

end Sys2Proof.Machine
end

