-- ==== Sys2Proof/Machine/Gf2Matrix.lean ====
section
/-! DEFINITION. MatrixOps: the GF(2) matrix multiplier, the triangular inverses, the invertible-matrix generator and the
scratch-bank commands (42_gf2_matrix.md). -/

namespace Sys2Proof.Machine

open Sys2Proof

/-- `multiply(a, b, n)` (R160). -/
def multiply (a b : BitMatrix) (n : Nat) : BitMatrix :=
  Vector.ofFn fun i => if i.val < n then xorOver a[i] (fun j => rowAt b j &&& mask n) n else 0

/-- Rows `0..i-1` of `inv_lower(L)` (R163), in ascending order: each is computed from those before it. -/
def invLowerRows (l : BitMatrix) : Nat → List Word
  | 0 => []
  | i + 1 =>
    let rs := invLowerRows l i
    rs ++ [unitVec i ^^^ xorOver (rowAt l i) (fun j => rs.getD j 0) i]

/-- `inv_lower(L, n)` (R163). -/
def invLower (l : BitMatrix) (n : Nat) : BitMatrix := Vector.ofFn fun i => (invLowerRows l n).getD i.val 0

/-- Rows `n-k..n-1` of `inv_upper(U, n)` (R164), computed in descending order: row `i` from the rows above `i`. The list
holds the rows in ascending order, so row `j` stands at `j - (i+1)` among the rows above `i`. -/
def invUpperRows (u : BitMatrix) (n : Nat) : Nat → List Word
  | 0 => []
  | k + 1 =>
    let i := n - (k + 1)
    let rs := invUpperRows u n k
    (unitVec i ^^^ xorOver (rowAt u i) (fun j => if i < j then rs.getD (j - (i + 1)) 0 else 0) n) :: rs

/-- `inv_upper(U, n)` (R164). -/
def invUpper (u : BitMatrix) (n : Nat) : BitMatrix := Vector.ofFn fun i => (invUpperRows u n n).getD i.val 0

/-- The factor `A` of R166 from the row draws `r`: bits below `i` from `r[i]`, bit `i` set. -/
def lowerFactor (n : Nat) (r : Nat → Word) : BitMatrix :=
  Vector.ofFn fun i =>
    if i.val < n then (r i.val &&& (unitVec i.val - 1)) ||| unitVec i.val else 0

/-- The factor `B` of R166 from the row draws `r`: bits above `i` and below `n` from `r[i]`, bit `i` set. -/
def upperFactor (n : Nat) (r : Nat → Word) : BitMatrix :=
  Vector.ofFn fun i =>
    if i.val < n then
      (r i.val &&& mask n &&& ~~~(unitVec i.val ||| (unitVec i.val - 1))) ||| unitVec i.val
    else 0

/-- `M = A·B` (R167; 90_conflicts.md C1: lower times upper). -/
def genMatrix (n : Nat) (r : Nat → Word) : BitMatrix := multiply (lowerFactor n r) (upperFactor n r) n

/-- `MINV = B⁻¹·A⁻¹` (R167). -/
def genInverse (n : Nat) (r : Nat → Word) : BitMatrix :=
  multiply (invUpper (upperFactor n r) n) (invLower (lowerFactor n r) n) n

/-- SCR_WR (R180): `SCR[K][ROW] <- v`, all 64 bits; `COUNT <- 0`. -/
def execScrWr (k : BitVec 2) (row : BitVec 6) (s : State) : Out :=
  runLatched (.scrWr k row) s fun v => .next ((s.setScratchRow k.toNat row v).commit 0)

/-- SCR_RD (R181): `RESULT <- SCR[K][ROW]`; `COUNT <- 0`. -/
def execScrRd (k : BitVec 2) (row : BitVec 6) (s : State) : Out :=
  runLatched (.scrRd k row) s fun _ => .next ((s.setResult (rowAt (s.scratch k.toNat) row.toNat)).commit 0)

/-- MATMUL (R182): `SCR[2] <- multiply(SCR[0], SCR[1], n)`, all 64 rows; `COUNT <- 0`. -/
def execMatmul (s : State) : Out :=
  runLatched .matmul s fun x =>
    .next ((s.setScratch 2 (multiply (s.scratch 0) (s.scratch 1) x.toNat)).commit 0)

/-- GENMAT (R186): `n` draws, `r[i]` the i-th (R165); `SCR[0] <- M`, `SCR[1] <- MINV`, `COUNT <- n`. -/
def execGenmat (s : State) : Out :=
  runLatched .genmat s fun x =>
    withDraws x.toNat s fun ds s' =>
      .next (((s'.setScratch 0 (genMatrix x.toNat (drawAt ds))).setScratch 1
        (genInverse x.toNat (drawAt ds))).commit x)

end Sys2Proof.Machine
end

