-- ==== Sys2Proof/Machine/Modinv.lean ====
section
/-! DEFINITION. The ModularInverseSolver (41_modinv.md). -/

namespace Sys2Proof.Machine

open Sys2Proof

/-- The loop of R141 from `y` after `it` iterations: it stops when `x * y = 1`, with at most `fuel` further updates. -/
def modinvLoop (x : Word) : (fuel : Nat) → (y : Word) → (it : Nat) → Word × Nat
  | 0, y, it => (y, it)
  | fuel + 1, y, it => if x * y = 1 then (y, it) else modinvLoop x fuel (y * (2 - x * y)) (it + 1)

/-- More updates than the loop of R141 makes on any odd `x`: R143 bounds them by 5, the source by 6. On an even `x` the
loop would never end; no rule presents one (R146). DEDUCED (log 9). -/
def modinvFuel : Nat := 8

/-- `modinv(x)` with its iteration count (R141). -/
def modinv (x : Word) : Word × Nat := modinvLoop x modinvFuel x 0

/-- MODINV (R145): `RESULT <- y`, `COUNT <- it`. -/
def execModinv (s : State) : Out :=
  runLatched .modinv s fun x => .next ((s.setResult (modinv x).1).commit (BitVec.ofNat 64 (modinv x).2))

end Sys2Proof.Machine
end

