-- ==== Sys2Proof/Machine/StageBank.lean ====
section
/-! DEFINITION. The StageBank: building it, the forward and the inverse stage, and the stage commands (43_stage_bank.md). -/

namespace Sys2Proof.Machine

open Sys2Proof

/-- `PHI` (00_scope.md R12). -/
def phi : Word := 0x9E3779B97F4A7C15

/-! ### Building the bank -/

/-- Draws of one stage: `n` row draws and the multiplier draw (R201). -/
def drawsPerStage (n : Nat) : Nat := n + 1

/-- `4·(n+1)`, the draws of an INIT (R201, 45_permutation.md R275). -/
def drawsOfInit (n : Nat) : Nat := 4 * drawsPerStage n

/-- Stage `k` of `build(n)` (R200). Draw `k·(n+1) + i` is row draw `r[i]` and draw `k·(n+1) + n` the multiplier draw
(R201), forced odd. -/
def buildStage (n : Nat) (ds : List Word) (k : Nat) : Stage :=
  let r := fun i => drawAt ds (k * drawsPerStage n + i)
  let mult := r n ||| 1
  { m := genMatrix n r
    minv := genInverse n r
    mult := mult
    imult := (modinv mult).1 }

/-- `build(n)` (R200). -/
def buildBank (n : Nat) (ds : List Word) : Vector Stage 4 := Vector.ofFn fun k => buildStage n ds k.val

/-! ### The sub-steps -/

/-- `weyl(z) = (z + PHI) & mk` (R203). -/
def weyl (n : Nat) (z : Word) : Word := (z + phi) &&& mask n

/-- `unweyl(z) = (z - PHI) & mk` (R203). -/
def unweyl (n : Nat) (z : Word) : Word := (z - phi) &&& mask n

/-- `matvec(X, z, n)`: the XOR of the rows of `X` that the bits of `z` below `n` select, masked (R204). -/
def matvec (x : BitMatrix) (z : Word) (n : Nat) : Word := xorOver z (rowAt x) n &&& mask n

/-- `lehmer(z, m) = (z * m) & mk` (R206). -/
def lehmer (n : Nat) (z m : Word) : Word := (z * m) &&& mask n

/-- `stage_fwd(k, z)` for the stage given (R207). -/
def stageFwd (g : Stage) (n : Nat) (z : Word) : Word := lehmer n (matvec g.m (weyl n z) n) g.mult

/-- `stage_inv(k, z)` for the stage given (R208). -/
def stageInv (g : Stage) (n : Nat) (z : Word) : Word := unweyl n (matvec g.minv (lehmer n z g.imult) n)

/-! ### The commands -/

/-- STAGE_FWD (R220): `RESULT <- stage_fwd(K, z0)`; `COUNT <- 0`. -/
def execStageFwd (k : BitVec 2) (s : State) : Out :=
  runLatched (.stageFwd k) s fun x =>
    .next ((s.setResult (stageFwd (s.stage k) s.width (s.maskOperand x))).commit 0)

/-- STAGE_INV (R221): `RESULT <- stage_inv(K, z0)`; `COUNT <- 0`. -/
def execStageInv (k : BitVec 2) (s : State) : Out :=
  runLatched (.stageInv k) s fun x =>
    .next ((s.setResult (stageInv (s.stage k) s.width (s.maskOperand x))).commit 0)

/-- MATVEC (R222): `RESULT <- matvec(S = 0 ? STG[K].M : STG[K].MINV, z0, n)`; `COUNT <- 0`. -/
def execMatvec (k : BitVec 2) (sel : Select) (s : State) : Out :=
  runLatched (.matvec k sel) s fun x =>
    .next ((s.setResult (matvec ((s.stage k).matrix sel) (s.maskOperand x) s.width)).commit 0)

/-- READ_ROW (R223): `RESULT <- (S = 0 ? STG[K].M[ROW] : STG[K].MINV[ROW])`; `COUNT <- 0`. -/
def execReadRow (k : BitVec 2) (sel : Select) (row : BitVec 6) (s : State) : Out :=
  runLatched (.readRow k sel row) s fun _ =>
    .next ((s.setResult (rowAt ((s.stage k).matrix sel) row.toNat)).commit 0)

/-- READ_MULT (R224): `RESULT <- (S = 0 ? STG[K].MULT : STG[K].IMULT)`; `COUNT <- 0`. -/
def execReadMult (k : BitVec 2) (sel : Select) (s : State) : Out :=
  runLatched (.readMult k sel) s fun _ => .next ((s.setResult ((s.stage k).multiplier sel)).commit 0)

end Sys2Proof.Machine
end

