-- ==== Sys2Proof/Machine/Permutation.lean ====
section
/-! DEFINITION. The PermutationEngine: BitWidth, INIT, the passes, NEXT and UNDO (45_permutation.md). -/

namespace Sys2Proof.Machine

open Sys2Proof

/-- The least width at or above `w` whose mask reaches `m`, at most `fuel` above `w`. -/
def leastWidth (m : Word) : (fuel : Nat) → (w : Nat) → Nat
  | 0, w => w
  | fuel + 1, w => if m ≤ mask w then w else leastWidth m fuel (w + 1)

/-- `bitwidth(max)`: "the least w in 1..64 with max <= mask(w)" (R270). -/
def bitwidth (m : Word) : Nat := leastWidth m 63 1

/-- One pass `P(z)` of the forward pipeline (R272). -/
def passFwd (bank : Vector Stage 4) (r : MixRow) (n : Nat) (z : Word) : Word :=
  mixApply r n
    (stageFwd bank[3] n (stageFwd bank[2] n (stageFwd bank[1] n (stageFwd bank[0] n (z &&& mask n)))))

/-- One pass `Q(z)` of the inverse pipeline (R272). -/
def passInv (bank : Vector Stage 4) (r : MixRow) (n : Nat) (z : Word) : Word :=
  stageInv bank[0] n
    (stageInv bank[1] n (stageInv bank[2] n (stageInv bank[3] n (mixUnapply r n (z &&& mask n)))))

/-- `P` of the GeneratorState in the registers. -/
def State.passFwd (s : State) (z : Word) : Word := Machine.passFwd s.bank (mixRow s.width) s.width z

/-- `Q` of the GeneratorState in the registers. -/
def State.passInv (s : State) (z : Word) : Word := Machine.passInv s.bank (mixRow s.width) s.width z

/-- The loop `repeat z <- pass(z); c <- c + 1 until z <= MAX` (R278, R281) from `z` after `c` passes. None: no value
`<= max` within `fuel` passes. -/
def rejectionLoop (pass : Word → Word) (max : Word) : (fuel : Nat) → (z : Word) → (c : Nat) → Option (Word × Nat)
  | 0, _, _ => none
  | fuel + 1, z, c =>
    let z' := pass z
    if z' ≤ max then some (z', c + 1) else rejectionLoop pass max fuel z' (c + 1)

/-- Passes after which a rejection loop that has not ended never ends: every pass lands in `[0, 2^n)`, so `2^n` passes
without a value `<= MAX` have met a value twice. DEDUCED (log 9). -/
def passLimit (n : Nat) : Nat := 2 ^ n

/-- NEXT's loop from position `p` (R278). -/
def State.walkFwd (s : State) (p : Word) : Option (Word × Nat) :=
  rejectionLoop s.passFwd s.max (passLimit s.width) p 0

/-- UNDO's loop from the value `x` (R281). -/
def State.walkInv (s : State) (x : Word) : Option (Word × Nat) :=
  rejectionLoop s.passInv s.max (passLimit s.width) x 0

/-- `POSITION <- (p < MAX) ? p + 1 : 0` (R278). -/
def State.advance (s : State) : State :=
  { s with position := if s.position < s.max then s.position + 1 else 0 }

/-- The results of INIT for bound `max` (R273): the bank built from the draws, MAX, BITS, POSITION and READY. -/
def State.install (s : State) (max : Word) (ds : List Word) : State :=
  { s with
    bank := buildBank (bitwidth max) ds
    max := max
    bits := BitVec.ofNat 7 (bitwidth max)
    position := 0
    status := { s.status with ready := true } }

/-- INIT (R273): `4·(n'+1)` draws into a new stage bank; `COUNT <- 4·(n'+1)`. -/
def execInit (s : State) : Out :=
  runLatched .init s fun x =>
    withDraws (drawsOfInit (bitwidth x)) s fun ds s' =>
      .next ((s'.install x ds).commit (BitVec.ofNat 64 (drawsOfInit (bitwidth x))))

/-- NEXT (R277, R278): the loop runs from POSITION as it was before the advance (90_conflicts.md C3). A loop that never
ends keeps the block agent in it, BUSY = 1 and nothing committed; R283 shows that no GeneratorState has one. -/
def execNext (s : State) : Out :=
  runLatched .next s fun _ =>
    match s.walkFwd s.position with
    | some (z, c) => .next ((s.advance.setResult z).commit (BitVec.ofNat 64 c))
    | none => .next s

/-- UNDO (R280, R281); POSITION is not written. As to a loop that never ends, see NEXT. -/
def execUndo (s : State) : Out :=
  runLatched .undo s fun x =>
    match s.walkInv x with
    | some (z, c) => .next ((s.setResult z).commit (BitVec.ofNat 64 c))
    | none => .next s

/-- PASS_FWD (R284): `RESULT <- P(z0)`, with no rejection; `COUNT <- 0`. -/
def execPassFwd (s : State) : Out :=
  runLatched .passFwd s fun x => .next ((s.setResult (s.passFwd (s.maskOperand x))).commit 0)

/-- PASS_INV (R285): `RESULT <- Q(z0)`, with no rejection; `COUNT <- 0`. -/
def execPassInv (s : State) : Out :=
  runLatched .passInv s fun x => .next ((s.setResult (s.passInv (s.maskOperand x))).commit 0)

end Sys2Proof.Machine
end

