-- ==== Sys2Proof/Machine/Dispatch.lean ====
section
/-! DEFINITION. One arm per command. -/

namespace Sys2Proof.Machine

open Sys2Proof

def exec (i : Instr) (s : State) : Host.Outcome State Fault Refusal :=
  match i with
  | .nop => Sys2Proof.Machine.execNop s
  | .clrerr => Sys2Proof.Machine.execClrerr s
  | .init => Sys2Proof.Machine.execInit s
  | .next => Sys2Proof.Machine.execNext s
  | .undo => Sys2Proof.Machine.execUndo s
  | .modinv => Sys2Proof.Machine.execModinv s
  | .mixFwd => Sys2Proof.Machine.execMixFwd s
  | .mixInv => Sys2Proof.Machine.execMixInv s
  | .stageFwd k => Sys2Proof.Machine.execStageFwd k s
  | .stageInv k => Sys2Proof.Machine.execStageInv k s
  | .matvec k sel => Sys2Proof.Machine.execMatvec k sel s
  | .passFwd => Sys2Proof.Machine.execPassFwd s
  | .passInv => Sys2Proof.Machine.execPassInv s
  | .readRow k sel row => Sys2Proof.Machine.execReadRow k sel row s
  | .readMult k sel => Sys2Proof.Machine.execReadMult k sel s
  | .readMixc row => Sys2Proof.Machine.execReadMixc row s
  | .scrWr k row => Sys2Proof.Machine.execScrWr k row s
  | .scrRd k row => Sys2Proof.Machine.execScrRd k row s
  | .matmul => Sys2Proof.Machine.execMatmul s
  | .genmat => Sys2Proof.Machine.execGenmat s

end Sys2Proof.Machine
end

