-- ==== Sys2Proof/Machine/Entropy.lean ====
section
/-! DEFINITION. The signals of the entropy port (20_memory.md R80, R81) and the draws each command needs (R82). -/

namespace Sys2Proof.Machine

open Sys2Proof

/-- The draws a command needs on operand `x` (R82): only INIT and GENMAT consume any. -/
def drawsNeeded (i : Instr) (x : Word) : Nat :=
  match i with
  | .init => drawsOfInit (bitwidth x)
  | .genmat => x.toNat
  | _ => 0

/-- `ent_valid`: the source offers a word. -/
def State.entValid (s : State) : Bool := !s.entropy.isEmpty

/-- `ent_data[63:0]` while `ent_valid` is 1: the oldest word on offer, exactly as delivered (R81). -/
def State.entData (s : State) : Option Word := s.entropy.head?

/-- `ent_ready`: asserted "only while an executing INIT or GENMAT needs its next draw" (R80). -/
def State.entReady (s : State) : Bool :=
  match s.pend, s.fetch with
  | some p, some (.instr i) => s.status.busy && decide (s.taken.length < drawsNeeded i p.operand)
  | _, _ => false

end Sys2Proof.Machine
end

