-- ==== Sys2Proof/Machine/HostProgram.lean ====
section
/-! DEFINITION. The host's program syntax (30_encoding.md R114) and the pseudo-instructions (R115) as the accesses they
expand to: host-side shorthand, "the block sees exactly the expanded accesses". -/

namespace Sys2Proof.Machine

open Sys2Proof

/-- One line of a host program (R114). -/
inductive HostAction where
  /-- `wr REG, v`. -/
  | wr (r : Reg) (v : Word)
  /-- `rd REG`. -/
  | rd (r : Reg)
  /-- `cmd MNEMONIC [k=K] [s=S] [row=ROW]`. -/
  | cmd (i : Instr)
  /-- `wait`. -/
  | wait
  deriving DecidableEq, Repr

/-- The event of a line (R114). -/
def HostAction.toInput : HostAction → Input
  | .wr r v => .access (.write r.offset .w8 v)
  | .rd r => .access (.read r.offset .w8)
  | .cmd i => .access (.write (Reg.offset .cmd) .w8 (encode i))
  | .wait => .wait

/-- The events of a program, in its order. -/
def hostProgram (p : List HostAction) : List Input := p.map HostAction.toInput

/-- `init MAXV` (R115). -/
def pseudoInit (maxv : Word) : List HostAction := [.wr .operand maxv, .cmd .init, .wait]

/-- `next` (R115). -/
def pseudoNext : List HostAction := [.cmd .next, .wait, .rd .result]

/-- `undo X` (R115). -/
def pseudoUndo (x : Word) : List HostAction := [.wr .operand x, .cmd .undo, .wait, .rd .result]

/-- `modinv X` (R115). -/
def pseudoModinv (x : Word) : List HostAction := [.wr .operand x, .cmd .modinv, .wait, .rd .result]

/-- `op1 MNEMONIC Z [fields]` (R115). -/
def pseudoOp1 (i : Instr) (z : Word) : List HostAction := [.wr .operand z, .cmd i, .wait, .rd .result]

/-- `rdback MNEMONIC [fields]` (R115). -/
def pseudoRdback (i : Instr) : List HostAction := [.cmd i, .wait, .rd .result]

/-- `check` (R115): `rd STATUS`, of whose answer the host requires `checkHolds`. -/
def pseudoCheck : List HostAction := [.rd .status]

/-- The requirement of `check`: bits [15:8] of the word read are 0 (R115). -/
def checkHolds (v : Word) : Bool := v.extractLsb' 8 8 == 0

end Sys2Proof.Machine
end

