-- ==== Sys2Proof/Machine/Step.lean ====
section
/-! DEFINITION. One step of the machine: the first event of the environment, or the block agent's step (00_scope.md R25,
30_encoding.md R112). -/

namespace Sys2Proof.Machine

open Sys2Proof

/-- The block agent's step (R112): it executes the latched command; with no command latched it is idle and "holds all
state" (60_exceptions.md R335). A latched word that does not decode (no acceptance leaves one) ends as a rejection
(log 3). -/
def blockStep (s : State) : Host.Outcome State Fault Refusal :=
  match s.fetch with
  | none => .next s
  | some (.rejected e) => .next (s.abort (decodeErrCode e))
  | some (.instr i) => exec i s

/-- One step. While the environment has no event to give, the block agent moves. -/
def step (s : State) : Host.Outcome State Fault Refusal :=
  match s.inputs with
  | [] => blockStep s
  | .block :: rest => blockStep { s with inputs := rest }
  | .access a :: rest => .next (State.busAccess { s with inputs := rest } a)
  | .wait :: rest => .next (State.pollRound { s with inputs := rest })
  | .offer w :: rest => .next (State.offer { s with inputs := rest } w)
  | .rst :: rest => .next (State.applyReset { s with inputs := rest })

/-- The command word made of the `nbits` low bits of `w`, as the bus delivers it. -/
def tableWord (nbits w : Nat) : Word := wordOfLanes (storedBytes nbits w)

/-- The state whose very next step is the block agent's step on the command word given: the word stands in the command
latch with the operand in OPERAND, as an acceptance leaves it (R111), and the block agent has the next turn (log 5). -/
def State.withFetchWord (s : State) (nbits w : Nat) : State :=
  { s with
    pend := some ⟨tableWord nbits w, s.operand⟩
    status := { s.status with busy := true }
    taken := []
    inputs := .block :: s.inputs }

end Sys2Proof.Machine
end

