-- ==== Sys2Proof/Safety.lean ====
section
/-! DEFINITION. The terms in which claims speak of runs: the invariants of the state, what a step that goes on is, and the
walks of the rejection loop. -/

namespace Sys2Proof.Machine

open Sys2Proof

/-- The invariants of one stage at size `n` (10_state.md R41). -/
structure Stage.Inv (g : Stage) (n : Nat) : Prop where
  m_wf : g.m.wfSize n
  minv_wf : g.minv.wfSize n
  m_minv : multiply g.m g.minv n = identity n
  minv_m : multiply g.minv g.m n = identity n
  mult_odd : bit g.mult 0 = true
  mult_imult : g.mult * g.imult = 1

/-- The registers and the bank hold a GeneratorState built by an INIT (R36 to R41). -/
structure State.GeneratorInv (s : State) : Prop where
  width_min : 1 ≤ s.width
  width_max : s.width ≤ 64
  width_eq : s.width = bitwidth s.max
  position_le : s.position ≤ s.max
  stages : ∀ k : Fin 4, s.bank[k].Inv s.width

/-- The command latch agrees with STATUS and with acceptance (R44, 30_encoding.md R110, R111), and draws are held only
by a command that still needs one (20_memory.md R80, R82). -/
structure State.LatchInv (s : State) : Prop where
  busy_iff : s.status.busy = s.pend.isSome
  accepted : ∀ p, s.pend = some p → ∃ i, decodeWord p.word = .instr i ∧ check i p.operand s = none ∧
    (s.taken = [] ∨ s.taken.length < drawsNeeded i p.operand)
  idle : s.pend = none → s.taken = []

/-- The registers before any INIT has committed (R38, R49). -/
structure State.BlankInv (s : State) : Prop where
  max_zero : s.max = 0
  position_zero : s.position = 0
  bits_zero : s.bits = 0

/-- The invariant of the block. -/
structure State.Inv (s : State) : Prop where
  latch : s.LatchInv
  generator : s.status.ready = true → s.GeneratorInv
  blank : s.status.ready = false → s.BlankInv

/-- A step that goes on. -/
def GoesOn (o : Out) : Prop := ∃ t, o = .next t

/-- The first `j >= 1` with `f^j(z) <= max` is `c`, and the value there is `v`: what the loops of 45_permutation.md R278
and R281 compute. -/
def FirstInRange (f : Word → Word) (max z v : Word) (c : Nat) : Prop :=
  1 ≤ c ∧ f^[c] z = v ∧ v ≤ max ∧ ∀ j, 1 ≤ j → j < c → ¬ f^[j] z ≤ max

end Sys2Proof.Machine
end

