-- ==== Sys2Proof/Certificates/Slice0/Obligations.lean ====
section
/-! DEFINITION. The statements for the provers, and the words they are stated in. -/

open Sys2Proof Sys2Proof.Machine

namespace Sys2Proof.Claims

/-! ### The words of the statements -/

/-- The state after the commit of a command that leaves RESULT = `r` and COUNT = `c`; nothing else differs from `s`. -/
def done (s : State) (r c : Word) : State :=
  { s with result := r, count := c, status := { s.status with err := .ok, busy := false }, pend := none }

/-- The state after a rejection with code `e`: only STATUS.ERR differs. -/
def rejectedWith (s : State) (e : ErrCode) : State := { s with status := { s.status with err := e } }

/-- The state after the acceptance of `v`: only PEND and STATUS.BUSY differ. -/
def acceptedWith (s : State) (v : Word) : State :=
  { s with pend := some ⟨v, s.operand⟩, status := { s.status with busy := true } }

/-- The words of a command: it is decoded exactly from the words that match under the mask, and a word with its opcode
that does not match is answered with ERR_RESERVED and no other effect. -/
def CommandWords (matchWord maskWord : Word) (build : Word → Instr) : Prop :=
  (∀ v, decodeWord v = .instr (build v) ↔ v &&& maskWord = matchWord) ∧
  (∀ s v, s.status.busy = false → v &&& 0xFF = matchWord → v &&& maskWord ≠ matchWord →
    s.issue v = rejectedWith s .reserved)

/-- How an idle block answers a write of the command's word: the code given, or acceptance. -/
def AnsweredWith (i : Instr) (answer : State → Option ErrCode) : Prop :=
  ∀ s, s.status.busy = false →
    s.issue (encode i) = match answer s with
      | some e => rejectedWith s e
      | none => acceptedWith s (encode i)

/-- ERR_NOINIT while READY = 0, and no other code. -/
def noinitOnly (s : State) : Option ErrCode := if s.status.ready then none else some .noinit

/-- The stage index K, `v[9:8]`. -/
def kOf (v : Word) : BitVec 2 := v.extractLsb' 8 2
/-- The select S, `v[10]`. -/
def selOf (v : Word) : Select := if v.getLsbD 10 then .inv else .fwd
/-- The row index ROW, `v[21:16]`. -/
def rowOf (v : Word) : BitVec 6 := v.extractLsb' 16 6

/-- The first `n` draws of fixture F1 of 95_test_vectors.md §2.1: draw `i` is `(i+1)·PHI mod 2^64`. -/
def f1Draws (n : Nat) : List Word := (List.range n).map fun i => BitVec.ofNat 64 (i + 1) * 0x9E3779B97F4A7C15

/-- The draws of the example of 42_gf2_matrix.md R186. -/
def genmatExampleDraws : Nat → Word := drawAt [0x9E3779B97F4A7C15, 0x3C6EF372FE94F82A, 0xDAA66D2C7DDF743F]

/-- The `max = 3` fixture of 95_test_vectors.md §2.3: the GeneratorState that INIT builds from F1's draws. -/
def fixture3 : State :=
  { State.reset with
    status := ⟨false, true, false, .ok⟩
    max := 3
    bits := 2
    bank := buildBank 2 (f1Draws 12) }

/-- The fixture with a command latched. -/
def fixture3With (i : Instr) (x : Word) : State :=
  { fixture3 with pend := some ⟨encode i, x⟩, status := ⟨true, true, false, .ok⟩ }

/-- RESULT of the next state; 0 where there is none. -/
def resultOf : Out → Word
  | .next t => t.result
  | _ => 0

/-- An outcome with its next state changed. -/
def mapNext (f : State → State) : Out → Out
  | .next t => .next (f t)
  | .fault r => .fault r
  | .refused r => .refused r

/-- Unit lower-triangular of size `n` (42_gf2_matrix.md R162). -/
def UnitLower (l : BitMatrix) (n : Nat) : Prop :=
  l.wfSize n ∧ ∀ i < n, bit (rowAt l i) i = true ∧ ∀ j, i < j → bit (rowAt l i) j = false

/-- Unit upper-triangular of size `n` (42_gf2_matrix.md R162). -/
def UnitUpper (u : BitMatrix) (n : Nat) : Prop :=
  u.wfSize n ∧ ∀ i < n, bit (rowAt u i) i = true ∧ ∀ j < i, bit (rowAt u i) j = false

/-- The XOR over `j < n` of `f j` on bits. -/
def parity (f : Nat → Bool) : Nat → Bool
  | 0 => false
  | n + 1 => parity f n ^^ f n

/-- The step of `s` is the block agent's step on the command `i`. -/
def ExecutesNow (s : State) (i : Instr) : Prop :=
  (s.inputs = [] ∨ ∃ rest, s.inputs = .block :: rest) ∧ ∃ p, s.pend = some p ∧ decodeWord p.word = .instr i

/-- The step of `s` is a reset. -/
def ResetsNow (s : State) : Prop := ∃ rest, s.inputs = .rst :: rest

/-- The step of `s` is the host's 64-bit write of `v` to the register `r`. -/
def WritesNow (s : State) (r : Reg) (v : Word) : Prop :=
  ∃ rest, s.inputs = .access (.write r.offset .w8 v) :: rest

/-- The state after `k` NEXT commands, each issued to the idle block and executed. -/
def afterNexts (s : State) : Nat → State
  | 0 => s
  | k + 1 =>
    match blockStep ((afterNexts s k).issue 0x11) with
    | .next t => t
    | _ => afterNexts s k

/-- The value that NEXT number `k` (counted from 0) returns. -/
def nextValue (s : State) (k : Nat) : Word := (afterNexts s (k + 1)).result

/-- Two outcomes that differ at most in the stage bank, and in that only while READY = 0. -/
def SameButUnwrittenBank : Out → Out → Prop
  | .next t, .next u => t = u ∨ (t.status.ready = false ∧ { t with bank := u.bank } = u)
  | _, _ => False

/-- The twenty opcodes of 30_encoding.md R106. -/
def legalOpcodes : List (BitVec 8) :=
  [0x00, 0x01, 0x10, 0x11, 0x12, 0x20, 0x30, 0x31, 0x32, 0x33, 0x34, 0x35, 0x36, 0x40, 0x41, 0x42, 0x50, 0x51, 0x52, 0x53]

/-- The fields an opcode uses (30_encoding.md R104, column "fields"; R110, `usedFields`), by opcode number. -/
def usedFieldsOf (op : BitVec 8) : Word :=
  if op = 0x32 ∨ op = 0x33 then 0x300
  else if op = 0x34 ∨ op = 0x41 then 0x700
  else if op = 0x40 then 0x3F0700
  else if op = 0x42 then 0x3F0000
  else if op = 0x50 ∨ op = 0x51 then 0x3F0300
  else 0

/-- `needsReady` of 30_encoding.md R104, by opcode number. -/
def needsReadyOf (op : BitVec 8) : Bool :=
  op ∈ ([0x11, 0x12, 0x30, 0x31, 0x32, 0x33, 0x34, 0x35, 0x36, 0x40, 0x41, 0x42] : List (BitVec 8))

/-- `decode(v)` of 30_encoding.md R110 with its `fieldOutOfRange`, on the word's numbers alone: the code of the first
failing check. -/
def specDecode (s : State) (v : Word) : Option ErrCode :=
  let op : BitVec 8 := v.extractLsb' 0 8
  if op ∉ legalOpcodes then some .illegal
  else if v &&& ~~~(0xFF ||| usedFieldsOf op) ≠ 0 then some .reserved
  else if needsReadyOf op ∧ s.status.ready = false then some .noinit
  else if (op = 0x40 ∧ s.bits.toNat ≤ (v.extractLsb' 16 6).toNat) ∨ (op = 0x42 ∧ 6 < (v.extractLsb' 16 6).toNat) ∨
      ((op = 0x50 ∨ op = 0x51) ∧ v.extractLsb' 8 2 = 3) then some .field
  else if op = 0x20 ∧ s.operand.getLsbD 0 = false then some .even
  else if op = 0x12 ∧ s.max < s.operand then some .range
  else if (op = 0x52 ∨ op = 0x53) ∧ ¬ (1 ≤ s.operand ∧ s.operand ≤ 64) then some .field
  else none

/-- The columns of the table of 60_exceptions.md R322 that hold "yes" for a command. -/
def codesOf : Instr → List ErrCode
  | .nop | .clrerr | .init => [.reserved]
  | .next | .mixFwd | .mixInv | .passFwd | .passInv => [.reserved, .noinit]
  | .stageFwd _ | .stageInv _ | .matvec _ _ | .readMult _ _ => [.reserved, .noinit]
  | .undo => [.reserved, .noinit, .range]
  | .modinv => [.reserved, .even]
  | .readRow _ _ _ => [.reserved, .noinit, .field]
  | .readMixc _ => [.reserved, .noinit, .field]
  | .scrWr _ _ | .scrRd _ _ => [.reserved, .field]
  | .matmul | .genmat => [.reserved, .field]

/-- The command words of an opcode number, well-formed or not. -/
def opcodeNumber (i : Instr) : BitVec 8 := (encode i).extractLsb' 0 8

/-- The commands that write RESULT (10_state.md R47). -/
def writesResult : Instr → Bool
  | .next | .undo | .modinv | .mixFwd | .mixInv | .stageFwd _ | .stageInv _ | .matvec _ _ | .passFwd | .passInv => true
  | .readRow _ _ _ | .readMult _ _ | .readMixc _ | .scrRd _ _ => true
  | .nop | .clrerr | .init | .scrWr _ _ | .matmul | .genmat => false

/-- The commands that write a scratch bank (10_state.md R47). -/
def writesScratch : Instr → Bool
  | .scrWr _ _ | .matmul | .genmat => true
  | _ => false

end Sys2Proof.Claims

open Sys2Proof.Claims

/-! ### Encoding -/

/-- The words written out in 95_test_vectors.md §3.6 decode, from their little-endian bytes, to the commands they stand
for (20_memory.md R74, 30_encoding.md R116). -/
def Obligations.WrittenOutWordsDecode : Prop :=
  decodeBytes [0x00, 0, 0, 0, 0, 0, 0, 0] = .instr .nop ∧
  decodeBytes [0x01, 0, 0, 0, 0, 0, 0, 0] = .instr .clrerr ∧
  decodeBytes [0x10, 0, 0, 0, 0, 0, 0, 0] = .instr .init ∧
  decodeBytes [0x20, 0, 0, 0, 0, 0, 0, 0] = .instr .modinv ∧
  decodeBytes [0x30, 0, 0, 0, 0, 0, 0, 0] = .instr .mixFwd ∧
  decodeBytes [0x32, 0x02, 0, 0, 0, 0, 0, 0] = .instr (.stageFwd 2) ∧
  decodeBytes [0x34, 0x05, 0, 0, 0, 0, 0, 0] = .instr (.matvec 1 .inv) ∧
  decodeBytes [0x40, 0x06, 0x05, 0, 0, 0, 0, 0] = .instr (.readRow 2 .inv 5) ∧
  decodeBytes [0x41, 0x04, 0, 0, 0, 0, 0, 0] = .instr (.readMult 0 .inv) ∧
  decodeBytes [0x42, 0x00, 0x03, 0, 0, 0, 0, 0] = .instr (.readMixc 3) ∧
  decodeBytes [0x50, 0x01, 0x3F, 0, 0, 0, 0, 0] = .instr (.scrWr 1 63) ∧
  decodeBytes [0x51, 0x02, 0x01, 0, 0, 0, 0, 0] = .instr (.scrRd 2 1) ∧
  decodeBytes [0x02, 0, 0, 0, 0, 0, 0, 0] = .rejected .illegal ∧
  decodeBytes [0x00, 0x08, 0, 0, 0, 0, 0, 0] = .rejected .reserved

/-- Bytes decode to a command exactly when they are the bytes of the command's word: no bit of an encoding is dropped and
each command has one encoding. -/
def Obligations.BytesDecodeExactlyTheirEncoding : Prop :=
  ∀ (bs : List Byte) (i : Instr), decodeBytes bs = .instr i ↔ bs = encodeBytes i

/-- 30_encoding.md R105: the table's match and mask, what matching a row means to the decoder, and that at most one row
matches any word. -/
def Obligations.OpcodeRowsMatchAndDoNotOverlap : Prop :=
  (opcodeTable.map fun r => (r.mnemonic, r.matchWord, r.mask)) =
    [("NOP", 0x00, 0xFFFFFFFFFFFFFFFF), ("CLRERR", 0x01, 0xFFFFFFFFFFFFFFFF),
     ("INIT", 0x10, 0xFFFFFFFFFFFFFFFF), ("NEXT", 0x11, 0xFFFFFFFFFFFFFFFF),
     ("UNDO", 0x12, 0xFFFFFFFFFFFFFFFF), ("MODINV", 0x20, 0xFFFFFFFFFFFFFFFF),
     ("MIX_FWD", 0x30, 0xFFFFFFFFFFFFFFFF), ("MIX_INV", 0x31, 0xFFFFFFFFFFFFFFFF),
     ("STAGE_FWD", 0x32, 0xFFFFFFFFFFFFFCFF), ("STAGE_INV", 0x33, 0xFFFFFFFFFFFFFCFF),
     ("MATVEC", 0x34, 0xFFFFFFFFFFFFF8FF), ("PASS_FWD", 0x35, 0xFFFFFFFFFFFFFFFF),
     ("PASS_INV", 0x36, 0xFFFFFFFFFFFFFFFF), ("READ_ROW", 0x40, 0xFFFFFFFFFFC0F8FF),
     ("READ_MULT", 0x41, 0xFFFFFFFFFFFFF8FF), ("READ_MIXC", 0x42, 0xFFFFFFFFFFC0FFFF),
     ("SCR_WR", 0x50, 0xFFFFFFFFFFC0FCFF), ("SCR_RD", 0x51, 0xFFFFFFFFFFC0FCFF),
     ("MATMUL", 0x52, 0xFFFFFFFFFFFFFFFF), ("GENMAT", 0x53, 0xFFFFFFFFFFFFFFFF)] ∧
  (∀ v i, decodeWord v = .instr i ↔
    ∃ r ∈ opcodeTable, v &&& r.mask = r.matchWord ∧ i = r.build (kOf v) (selOf v) (rowOf v)) ∧
  (∀ v, ∀ r ∈ opcodeTable, ∀ q ∈ opcodeTable,
    v &&& r.mask = r.matchWord → v &&& q.mask = q.matchWord → r.mnemonic = q.mnemonic)

/-- 30_encoding.md R106: exactly the words whose OP is not listed are illegal, 236 of the 256 opcodes are, and writing
such a word is rejected with ERR_ILLEGAL. R107: a legal OP with a nonzero bit outside OP and the opcode's used fields,
the reserved bits [15:11] and [63:22] among them, is rejected with ERR_RESERVED and never ignored. -/
def Obligations.IllegalAndReservedWordsAreRejected : Prop :=
  (∀ v, decodeWord v = .rejected .illegal ↔ v.extractLsb' 0 8 ∉ legalOpcodes) ∧
  ((List.range 256).filter fun n => BitVec.ofNat 8 n ∉ legalOpcodes).length = 236 ∧
  (∀ s v, s.status.busy = false → v.extractLsb' 0 8 ∉ legalOpcodes → s.issue v = rejectedWith s .illegal) ∧
  (∀ s v, s.status.busy = false → v.extractLsb' 0 8 ∈ legalOpcodes →
    v &&& ~~~(0xFF ||| usedFieldsOf (v.extractLsb' 0 8)) ≠ 0 → s.issue v = rejectedWith s .reserved) ∧
  (∀ s (v : Word), s.status.busy = false → v.extractLsb' 0 8 ∈ legalOpcodes →
    v.extractLsb' 11 5 ≠ 0 ∨ v.extractLsb' 22 42 ≠ 0 → s.issue v = rejectedWith s .reserved) ∧
  (∀ v i, decodeWord v = .instr i → v &&& ~~~(0xFF ||| usedFieldsOf (v.extractLsb' 0 8)) = 0)

/-! ### The register window -/

/-- 20_memory.md R76: what a 64-bit read returns and a 64-bit write does at each 8-byte-aligned offset; besides the bus
response, a read changes nothing and a write only what the table names. R73: any access of another width or at an offset
that is not 8-byte-aligned gets the bus error response and has no effect on the block; a read gets no data. (The field
`resp` that holds the response is the model's own, log 6.) -/
def Obligations.RegisterWindowAccesses : Prop :=
  (∀ s : State,
    s.busAccess (.read 0x00 .w8) = { s with resp := some (.data 0x5052504700000001) } ∧
      s.busAccess (.read 0x08 .w8) = { s with resp := some (.data 0) } ∧
      s.busAccess (.read 0x10 .w8) = { s with resp := some (.data s.status.toWord) } ∧
      s.busAccess (.read 0x18 .w8) = { s with resp := some (.data s.operand) } ∧
      s.busAccess (.read 0x20 .w8) = { s with resp := some (.data s.result) } ∧
      s.busAccess (.read 0x28 .w8) = { s with resp := some (.data s.max) } ∧
      s.busAccess (.read 0x30 .w8) = { s with resp := some (.data s.position) } ∧
      s.busAccess (.read 0x38 .w8) = { s with resp := some (.data (s.bits.setWidth 64)) } ∧
      s.busAccess (.read 0x40 .w8) = { s with resp := some (.data s.count) } ∧
      (∀ v, s.busAccess (.write 0x08 .w8 v) = { s.issue v with resp := some .ack }) ∧
      (∀ v, s.busAccess (.write 0x18 .w8 v) = { s with operand := v, resp := some .ack }) ∧
      (∀ off ∈ ([0x00, 0x10, 0x20, 0x28, 0x30, 0x38, 0x40] : List (BitVec 8)), ∀ v,
        s.busAccess (.write off .w8 v) = { s with resp := some .ack }) ∧
      (∀ off : BitVec 8, 0x48 ≤ off → off.extractLsb' 0 3 = 0 →
        s.busAccess (.read off .w8) = { s with resp := some (.data 0) } ∧
        ∀ v, s.busAccess (.write off .w8 v) = { s with resp := some .ack })) ∧
  ∀ (s : State) (off : BitVec 8) (width : Width), width ≠ .w8 ∨ off.extractLsb' 0 3 ≠ 0 →
    s.busAccess (.read off width) = { s with resp := some .error } ∧
    ∀ v, s.busAccess (.write off width v) = { s with resp := some .error }

/-- The places of the fields of STATUS (10_state.md R33) and the codes of ERR (30_encoding.md R109): BUSY [0], READY [1],
OVR [2], ERR [15:8], every other bit 0. -/
def Obligations.StatusWordLayout : Prop :=
  ∀ st : Status,
    (∀ j, bit st.toWord j =
      if j = 0 then st.busy else if j = 1 then st.ready else if j = 2 then st.ovr
      else if 8 ≤ j ∧ j < 16 then st.err.code.getLsbD (j - 8) else false) ∧
    st.toWord.extractLsb' 8 8 = st.err.code ∧ st.err.code ≤ 0x06 ∧
    (ErrCode.code .ok = 0x00 ∧ ErrCode.code .illegal = 0x01 ∧ ErrCode.code .reserved = 0x02 ∧
      ErrCode.code .noinit = 0x03 ∧ ErrCode.code .even = 0x04 ∧ ErrCode.code .range = 0x05 ∧
      ErrCode.code .field = 0x06)

/-! ### Issue, acceptance, rejection -/

/-- 30_encoding.md R110: on an idle block the decoder and the checks of the model answer every CMD write as the spec's
`decode(v)` does on the word's numbers, in its order: the first failing check decides the code, and a word that fails
none is accepted; R111: acceptance latches the word with OPERAND and sets BUSY, and changes nothing else. -/
def Obligations.CommandWriteFollowsTheDecodeOrder : Prop :=
  ∀ (s : State) (v : Word), s.status.busy = false →
    s.issue v = match specDecode s v with
      | some e => rejectedWith s e
      | none => acceptedWith s v

/-- 60_exceptions.md R322: which command can raise which code, and that an undefined OP raises ILLEGAL. -/
def Obligations.CodesEachCommandCanRaise : Prop :=
  (∀ (i : Instr) (e : ErrCode), e ∈ codesOf i ↔
    ∃ (s : State) (v : Word), s.status.busy = false ∧ v.extractLsb' 0 8 = opcodeNumber i ∧
      s.issue v = rejectedWith s e) ∧
  (∀ (s : State) (v : Word) (e : ErrCode), s.status.busy = false → v.extractLsb' 0 8 ∉ legalOpcodes →
    (s.issue v = rejectedWith s e ↔ e = .illegal))

/-- 70_reset_and_hazards.md R360: a CMD write while BUSY = 1 sets OVR and changes nothing else (besides the bus
response), whatever the word; and OVR, once 1, is cleared by no step but a commit of CLRERR or a reset. -/
def Obligations.CommandWhileBusyIsDropped : Prop :=
  (∀ (s : State) (v : Word), s.status.busy = true →
    s.busAccess (.write 0x08 .w8 v) = { s with status := { s.status with ovr := true }, resp := some .ack }) ∧
  (∀ s t : State, step s = .next t → s.status.ovr = true → t.status.ovr = false →
    ExecutesNow s .clrerr ∨ ResetsNow s)

/-- 30_encoding.md R111, from acceptance on: a command's step uses the operand latched with it, never the live OPERAND
register: whatever the host has written to OPERAND since, the step does the same. -/
def Obligations.ExecutionIgnoresLiveOperand : Prop :=
  ∀ (i : Instr) (s : State) (y : Word),
    exec i { s with operand := y } = mapNext (fun t => { t with operand := y }) (exec i s)

/-! ### The commands -/

/-- 46_control.md R310 (NOP). -/
def Obligations.NopCommand : Prop :=
  CommandWords 0x00 0xFFFFFFFFFFFFFFFF (fun _ => .nop) ∧
  AnsweredWith .nop (fun _ => none) ∧
  (∀ s p, s.pend = some p → exec .nop s = .next (done s s.result 0)) ∧
  (∀ s : State, s.status.busy = false → s.status.err = .illegal →
    ∃ t, blockStep (s.issue 0) = .next t ∧ t.status = { s.status with err := .ok } ∧ t.count = 0)

/-- 46_control.md R311 (CLRERR). That the commit clears also an OVR set while this CLRERR was executing is the model's
reading (log 8, DEDUCED). -/
def Obligations.ClrerrCommand : Prop :=
  CommandWords 0x01 0xFFFFFFFFFFFFFFFF (fun _ => .clrerr) ∧
  AnsweredWith .clrerr (fun _ => none) ∧
  (∀ s p, s.pend = some p →
    exec .clrerr s = .next { done s s.result 0 with
      status := { s.status with err := .ok, busy := false, ovr := false } }) ∧
  (∀ s : State, s.status.busy = true → s.issue 0x01 = { s with status := { s.status with ovr := true } }) ∧
  (∀ s : State, s.status.toWord = 0x0006 → ∃ t, blockStep (s.issue 0x01) = .next t ∧ t.status.toWord = 0x0002)

/-- 41_modinv.md R145 (MODINV). -/
def Obligations.ModinvCommand : Prop :=
  CommandWords 0x20 0xFFFFFFFFFFFFFFFF (fun _ => .modinv) ∧
  AnsweredWith .modinv (fun s => if s.operand.getLsbD 0 then none else some .even) ∧
  (∀ s p, s.pend = some p → p.operand.getLsbD 0 = true →
    ∃ (y : Word) (it : Nat), exec .modinv s = .next (done s y (BitVec.ofNat 64 it)) ∧
      modinv p.operand = (y, it) ∧ p.operand * y = 1 ∧ it ≤ 5) ∧
  modinv 1 = (1, 0) ∧
  modinv 0xFFFFFFFFFFFFFFFF = (0xFFFFFFFFFFFFFFFF, 0) ∧
  modinv 0x8000000000000001 = (0x8000000000000001, 0) ∧
  modinv 3 = (0xAAAAAAAAAAAAAAAB, 5)

/-- 42_gf2_matrix.md R180 (SCR_WR). -/
def Obligations.ScrWrCommand : Prop :=
  CommandWords 0x50 0xFFFFFFFFFFC0FCFF (fun v => .scrWr (kOf v) (rowOf v)) ∧
  (∀ k row, AnsweredWith (.scrWr k row) (fun _ => if k = 3 then some .field else none)) ∧
  (∀ (s : State) p (k : BitVec 2) (row : BitVec 6), s.pend = some p → k ≠ 3 →
    ∃ t, exec (.scrWr k row) s = .next t ∧ t = { done s s.result 0 with scr := t.scr } ∧
      ∀ (b : Fin 3) (j : Fin 64),
        t.scr[b][j] = if b.val = k.toNat ∧ j.val = row.toNat then p.operand else s.scr[b][j]) ∧
  (∃ t, exec (.scrWr 0 0) (fixture3With (.scrWr 0 0) 0x3) = .next t ∧ t.scr[0][0] = 0x3)

/-- 42_gf2_matrix.md R181 (SCR_RD). -/
def Obligations.ScrRdCommand : Prop :=
  CommandWords 0x51 0xFFFFFFFFFFC0FCFF (fun v => .scrRd (kOf v) (rowOf v)) ∧
  (∀ k row, AnsweredWith (.scrRd k row) (fun _ => if k = 3 then some .field else none)) ∧
  (∀ (s : State) p (b : Fin 3) (j : Fin 64), s.pend = some p →
    exec (.scrRd (BitVec.ofNat 2 b.val) (BitVec.ofNat 6 j.val)) s = .next (done s s.scr[b][j] 0)) ∧
  (∀ (b : Fin 3) (j : Fin 64), State.reset.scr[b][j] = 0) ∧
  (∀ (s t : State) (x w : Word), s.pend = some ⟨w, x⟩ → exec (.scrWr 0 0) s = .next t →
    resultOf (exec (.scrRd 0 0) (acceptedWith t 0x51)) = x)

/-- 42_gf2_matrix.md R182 (MATMUL). -/
def Obligations.MatmulCommand : Prop :=
  CommandWords 0x52 0xFFFFFFFFFFFFFFFF (fun _ => .matmul) ∧
  AnsweredWith .matmul (fun s => if 1 ≤ s.operand ∧ s.operand ≤ 64 then none else some .field) ∧
  (∀ (s : State) p, s.pend = some p → 1 ≤ p.operand → p.operand ≤ 64 →
    ∃ t, exec .matmul s = .next t ∧ t = { done s s.result 0 with scr := t.scr } ∧
      t.scr[0] = s.scr[0] ∧ t.scr[1] = s.scr[1] ∧
      t.scr[2] = multiply s.scr[0] s.scr[1] p.operand.toNat ∧
      ∀ i : Fin 64, p.operand.toNat ≤ i.val → t.scr[2][i] = 0) ∧
  (∀ (a b a' b' : BitMatrix) (n : Nat), 1 ≤ n → n ≤ 64 →
    (∀ i < n, rowAt a i &&& mask n = rowAt a' i &&& mask n ∧ rowAt b i &&& mask n = rowAt b' i &&& mask n) →
    multiply a b n = multiply a' b' n) ∧
  mask 64 = BitVec.allOnes 64 ∧
  (∀ (s : State) w, s.pend = some ⟨w, 3⟩ →
    s.scr[0][0] = 0b011 → s.scr[0][1] = 0b110 → s.scr[0][2] = 0b101 →
    s.scr[1][0] = 0b001 → s.scr[1][1] = 0b011 → s.scr[1][2] = 0b111 →
    ∃ t, exec .matmul s = .next t ∧ t.scr[2][0] = 0b010 ∧ t.scr[2][1] = 0b100 ∧ t.scr[2][2] = 0b110 ∧
      ∀ i : Fin 64, 3 ≤ i.val → t.scr[2][i] = 0)

/-- 42_gf2_matrix.md R186 (GENMAT): with the draws at hand it commits, with too few it blocks. That a blocked GENMAT answers
a next state that holds every word offered so far is the model's reading (log 7, DEDUCED). -/
def Obligations.GenmatCommand : Prop :=
  CommandWords 0x53 0xFFFFFFFFFFFFFFFF (fun _ => .genmat) ∧
  AnsweredWith .genmat (fun s => if 1 ≤ s.operand ∧ s.operand ≤ 64 then none else some .field) ∧
  (∀ (s : State) p, s.pend = some p → 1 ≤ p.operand → p.operand ≤ 64 →
    p.operand.toNat ≤ s.taken.length + s.entropy.length →
    ∃ t, exec .genmat s = .next t ∧
      t = { done s s.result p.operand with
        scr := t.scr, taken := [], entropy := s.entropy.drop (p.operand.toNat - s.taken.length) } ∧
      t.scr[0] = genMatrix p.operand.toNat (drawAt ((s.taken ++ s.entropy).take p.operand.toNat)) ∧
      t.scr[1] = genInverse p.operand.toNat (drawAt ((s.taken ++ s.entropy).take p.operand.toNat)) ∧
      t.scr[2] = s.scr[2] ∧
      (∀ i : Fin 64, p.operand.toNat ≤ i.val → t.scr[0][i] = 0 ∧ t.scr[1][i] = 0) ∧
      multiply t.scr[0] t.scr[1] p.operand.toNat = identity p.operand.toNat) ∧
  (∀ (s : State) p, s.pend = some p → 1 ≤ p.operand → p.operand ≤ 64 →
    s.taken.length + s.entropy.length < p.operand.toNat →
    exec .genmat s = .next { s with taken := s.taken ++ s.entropy, entropy := [] }) ∧
  ((lowerFactor 3 genmatExampleDraws).toList.take 3 = [0b001, 0b010, 0b111] ∧
    (upperFactor 3 genmatExampleDraws).toList.take 3 = [0b101, 0b010, 0b100] ∧
    (genMatrix 3 genmatExampleDraws).toList.take 3 = [0b101, 0b010, 0b011] ∧
    (genInverse 3 genmatExampleDraws).toList.take 3 = [0b110, 0b010, 0b111])

/-- 43_stage_bank.md R220 (STAGE_FWD). -/
def Obligations.StageFwdCommand : Prop :=
  CommandWords 0x32 0xFFFFFFFFFFFFFCFF (fun v => .stageFwd (kOf v)) ∧
  (∀ k, AnsweredWith (.stageFwd k) noinitOnly) ∧
  (∀ (s : State) p (k : BitVec 2), s.pend = some p → s.status.ready = true →
    let z0 := p.operand &&& mask s.width
    exec (.stageFwd k) s = .next (done s
      ((matvec s.bank[k.toFin].m ((z0 + 0x9E3779B97F4A7C15) &&& mask s.width) s.width * s.bank[k.toFin].mult)
        &&& mask s.width) 0)) ∧
  (∀ (g : Stage) (x : Word), g.Inv 1 → stageFwd g 1 (x &&& mask 1) = (x &&& mask 1) ^^^ 1) ∧
  mask 64 = BitVec.allOnes 64 ∧
  resultOf (exec (.stageFwd 0) (fixture3With (.stageFwd 0) 1)) = 2 ∧
  resultOf (exec (.stageFwd 0) (fixture3With (.stageFwd 0) 5)) = 2

/-- 43_stage_bank.md R221 (STAGE_INV). -/
def Obligations.StageInvCommand : Prop :=
  CommandWords 0x33 0xFFFFFFFFFFFFFCFF (fun v => .stageInv (kOf v)) ∧
  (∀ k, AnsweredWith (.stageInv k) noinitOnly) ∧
  (∀ (s : State) p (k : BitVec 2), s.pend = some p → s.status.ready = true →
    let z0 := p.operand &&& mask s.width
    exec (.stageInv k) s = .next (done s
      ((matvec s.bank[k.toFin].minv ((z0 * s.bank[k.toFin].imult) &&& mask s.width) s.width - 0x9E3779B97F4A7C15)
        &&& mask s.width) 0)) ∧
  (∀ (g : Stage) (x : Word), g.Inv 1 → stageInv g 1 (x &&& mask 1) = (x &&& mask 1) ^^^ 1) ∧
  (∀ (s t : State) p (k : BitVec 2) (w : Word), s.GeneratorInv → s.status.ready = true → s.pend = some p →
    exec (.stageFwd k) s = .next t →
    exec (.stageInv k) { t with pend := some ⟨w, t.result⟩, status := { t.status with busy := true } } =
      .next { t with result := p.operand &&& mask s.width }) ∧
  resultOf (exec (.stageInv 0) (fixture3With (.stageInv 0) 2)) = 1

/-- 43_stage_bank.md R222 (MATVEC). -/
def Obligations.MatvecCommand : Prop :=
  CommandWords 0x34 0xFFFFFFFFFFFFF8FF (fun v => .matvec (kOf v) (selOf v)) ∧
  (∀ k sel, AnsweredWith (.matvec k sel) noinitOnly) ∧
  (∀ (s : State) p (k : BitVec 2), s.pend = some p → s.status.ready = true →
    exec (.matvec k .fwd) s = .next (done s (matvec s.bank[k.toFin].m (p.operand &&& mask s.width) s.width) 0) ∧
    exec (.matvec k .inv) s = .next (done s (matvec s.bank[k.toFin].minv (p.operand &&& mask s.width) s.width) 0)) ∧
  (∀ (x : BitMatrix) (n : Nat), n ≤ 64 → matvec x 0 n = 0 ∧
    ∀ j < n, matvec x (unitVec j) n = rowAt x j &&& mask n) ∧
  (∀ (g : Stage) (n : Nat) (z : Word), 1 ≤ n → n ≤ 64 → g.Inv n →
    (∀ j < n, matvec g.m (unitVec j) n = rowAt g.m j ∧ matvec g.minv (unitVec j) n = rowAt g.minv j) ∧
    matvec g.minv (matvec g.m (z &&& mask n) n) n = z &&& mask n) ∧
  resultOf (exec (.matvec 3 .fwd) (fixture3With (.matvec 3 .fwd) 1)) = 3

/-- 43_stage_bank.md R223 (READ_ROW). -/
def Obligations.ReadRowCommand : Prop :=
  CommandWords 0x40 0xFFFFFFFFFFC0F8FF (fun v => .readRow (kOf v) (selOf v) (rowOf v)) ∧
  (∀ k sel row, AnsweredWith (.readRow k sel row) (fun s =>
    if s.status.ready = false then some .noinit else if s.bits.toNat ≤ row.toNat then some .field else none)) ∧
  (∀ (s : State) p (k : BitVec 2) (row : BitVec 6), s.pend = some p → s.status.ready = true →
    row.toNat < s.bits.toNat →
    exec (.readRow k .fwd row) s = .next (done s (rowAt s.bank[k.toFin].m row.toNat) 0) ∧
    exec (.readRow k .inv row) s = .next (done s (rowAt s.bank[k.toFin].minv row.toNat) 0)) ∧
  (∀ (s : State) (k : BitVec 2) (row : BitVec 6), s.GeneratorInv →
    (rowAt s.bank[k.toFin].m row.toNat).toNat < 2 ^ s.width ∧
    (rowAt s.bank[k.toFin].minv row.toNat).toNat < 2 ^ s.width) ∧
  resultOf (exec (.readRow 3 .inv 0) (fixture3With (.readRow 3 .inv 0) 0)) = 2

/-- 43_stage_bank.md R224 (READ_MULT). -/
def Obligations.ReadMultCommand : Prop :=
  CommandWords 0x41 0xFFFFFFFFFFFFF8FF (fun v => .readMult (kOf v) (selOf v)) ∧
  (∀ k sel, AnsweredWith (.readMult k sel) noinitOnly) ∧
  (∀ (s : State) p (k : BitVec 2), s.pend = some p → s.status.ready = true →
    exec (.readMult k .fwd) s = .next (done s s.bank[k.toFin].mult 0) ∧
    exec (.readMult k .inv) s = .next (done s s.bank[k.toFin].imult 0)) ∧
  (∀ (n : Nat) (ds : List Word) (k : Fin 4), (buildBank n ds)[k].mult.getLsbD 0 = true ∧
    (buildBank n ds)[k].mult * (buildBank n ds)[k].imult = 1) ∧
  resultOf (exec (.readMult 0 .fwd) (fixture3With (.readMult 0 .fwd) 0)) = 0xDAA66D2C7DDF743F ∧
  resultOf (exec (.readMult 0 .inv) (fixture3With (.readMult 0 .inv) 0)) = 0x509F814B33127BBF

/-- 44_mix.md R250 (MIX_FWD). -/
def Obligations.MixFwdCommand : Prop :=
  CommandWords 0x30 0xFFFFFFFFFFFFFFFF (fun _ => .mixFwd) ∧
  AnsweredWith .mixFwd noinitOnly ∧
  (∀ (s : State) p, s.pend = some p → s.status.ready = true →
    exec .mixFwd s = .next (done s (mixApply (mixRow s.width) s.width (p.operand &&& mask s.width)) 0)) ∧
  (∀ z : Word, mixApply (mixRow 1) 1 (z &&& mask 1) = z &&& mask 1) ∧
  ([0, 1, 2, 3].map (mixApply (mixRow 2) 2)) = [0, 1, 3, 2] ∧
  (∀ n, 1 ≤ n → n ≤ 64 → mixApply (mixRow n) n 0 = 0) ∧
  mixApply (mixRow 7) 7 0x40 = 0x78

/-- 44_mix.md R251 (MIX_INV). -/
def Obligations.MixInvCommand : Prop :=
  CommandWords 0x31 0xFFFFFFFFFFFFFFFF (fun _ => .mixInv) ∧
  AnsweredWith .mixInv noinitOnly ∧
  (∀ (s : State) p, s.pend = some p → s.status.ready = true →
    exec .mixInv s = .next (done s (mixUnapply (mixRow s.width) s.width (p.operand &&& mask s.width)) 0)) ∧
  ([0, 1, 2, 3, 4, 5, 6, 7].map (mixUnapply (mixRow 3) 3)) = [0, 1, 3, 2, 6, 7, 5, 4] ∧
  (∀ n, 1 ≤ n → n ≤ 64 → ∀ z : Word,
    mixUnapply (mixRow n) n (mixApply (mixRow n) n (z &&& mask n)) = z &&& mask n) ∧
  mixUnapply (mixRow 7) 7 0x78 = 0x40

/-- 44_mix.md R252 (READ_MIXC). -/
def Obligations.ReadMixcCommand : Prop :=
  CommandWords 0x42 0xFFFFFFFFFFC0FFFF (fun v => .readMixc (rowOf v)) ∧
  (∀ row, AnsweredWith (.readMixc row) (fun s =>
    if s.status.ready = false then some .noinit else if 6 < row.toNat then some .field else none)) ∧
  (∀ (s : State) p, s.pend = some p → s.status.ready = true →
    exec (.readMixc 0) s = .next (done s ((mixRow s.width).s0.setWidth 64) 0) ∧
    exec (.readMixc 1) s = .next (done s ((mixRow s.width).s1.setWidth 64) 0) ∧
    exec (.readMixc 2) s = .next (done s ((mixRow s.width).s2.setWidth 64) 0) ∧
    exec (.readMixc 3) s = .next (done s (mixRow s.width).m0 0) ∧
    exec (.readMixc 4) s = .next (done s (mixRow s.width).m1 0) ∧
    exec (.readMixc 5) s = .next (done s (mixRow s.width).im0 0) ∧
    exec (.readMixc 6) s = .next (done s (mixRow s.width).im1 0)) ∧
  (∀ (s : State) p (row : BitVec 6), s.pend = some p → s.status.ready = true → row.toNat ≤ 6 → s.width < 8 →
    resultOf (exec (.readMixc row) s) = 1) ∧
  resultOf (exec (.readMixc 3) (fixture3With (.readMixc 3) 0)) = 1

/-- 45_permutation.md R273 (INIT): with the draws at hand it commits the new GeneratorState, MAX, BITS, POSITION and
READY, whatever was there before; with too few it blocks. That a blocked INIT answers a next state that holds every word
offered so far is the model's reading (log 7, DEDUCED). -/
def Obligations.InitCommand : Prop :=
  CommandWords 0x10 0xFFFFFFFFFFFFFFFF (fun _ => .init) ∧
  AnsweredWith .init (fun _ => none) ∧
  (∀ (s : State) p, s.pend = some p →
    4 * (bitwidth p.operand + 1) ≤ s.taken.length + s.entropy.length →
    exec .init s = .next { done s s.result (BitVec.ofNat 64 (4 * (bitwidth p.operand + 1))) with
      bank := buildBank (bitwidth p.operand) ((s.taken ++ s.entropy).take (4 * (bitwidth p.operand + 1)))
      max := p.operand
      bits := BitVec.ofNat 7 (bitwidth p.operand)
      position := 0
      status := { s.status with err := .ok, busy := false, ready := true }
      taken := []
      entropy := s.entropy.drop (4 * (bitwidth p.operand + 1) - s.taken.length) }) ∧
  (∀ (s : State) p, s.pend = some p →
    s.taken.length + s.entropy.length < 4 * (bitwidth p.operand + 1) →
    exec .init s = .next { s with taken := s.taken ++ s.entropy, entropy := [] }) ∧
  (bitwidth 0 = 1 ∧ 4 * (bitwidth 0 + 1) = 8) ∧
  (bitwidth 0xFFFFFFFFFFFFFFFF = 64 ∧ 4 * (bitwidth 0xFFFFFFFFFFFFFFFF + 1) = 260) ∧
  (bitwidth 3 = 2 ∧ 4 * (bitwidth 3 + 1) = 12) ∧
  (((buildBank 2 (f1Draws 12)).toList.map fun g => (g.m.toList.take 2, g.minv.toList.take 2, g.mult, g.imult)) =
    [([0b01, 0b10], [0b01, 0b10], 0xDAA66D2C7DDF743F, 0x509F814B33127BBF),
     ([0b01, 0b11], [0b01, 0b11], 0xB54CDA58FBBEE87F, 0xF004E65D74F8D77F),
     ([0b11, 0b10], [0b11, 0b10], 0x8FF34785799E5CBD, 0xC58A806E665B7E95),
     ([0b11, 0b01], [0b10, 0b11], 0x6A99B4B1F77DD0FD, 0x940FB5EC4A70CC55)])

/-- 45_permutation.md R277 with R278 (NEXT): it completes in every GeneratorState; RESULT is the first value `<= MAX`
that repeated passes reach from POSITION as it was before the advance, COUNT the passes made. -/
def Obligations.NextCommand : Prop :=
  CommandWords 0x11 0xFFFFFFFFFFFFFFFF (fun _ => .next) ∧
  AnsweredWith .next noinitOnly ∧
  (∀ (s : State) p, s.pend = some p → s.status.ready = true → s.GeneratorInv →
    ∃ (z : Word) (c : Nat), FirstInRange s.passFwd s.max s.position z c ∧
      exec .next s = .next { done s z (BitVec.ofNat 64 c) with
        position := if s.position < s.max then s.position + 1 else 0 } ∧
      z ≤ s.max ∧ (s.max = 0 → z = 0 ∧ s.position = 0) ∧ (s.max = 0xFFFFFFFFFFFFFFFF → c = 1)) ∧
  ([0, 1, 2, 3].map fun p => resultOf (exec .next { fixture3With .next 0 with position := p })) = [0, 1, 3, 2]

/-- 45_permutation.md R280 with R281 (UNDO): it completes for every operand `<= MAX` in every GeneratorState; RESULT is
the first value `<= MAX` that repeated inverse passes reach from the operand; POSITION is not written and not read. -/
def Obligations.UndoCommand : Prop :=
  CommandWords 0x12 0xFFFFFFFFFFFFFFFF (fun _ => .undo) ∧
  AnsweredWith .undo (fun s =>
    if s.status.ready = false then some .noinit else if s.max < s.operand then some .range else none) ∧
  (∀ (s : State) p, s.pend = some p → s.status.ready = true → s.GeneratorInv → p.operand ≤ s.max →
    ∃ (z : Word) (c : Nat), FirstInRange s.passInv s.max p.operand z c ∧
      exec .undo s = .next (done s z (BitVec.ofNat 64 c)) ∧
      (s.max = 0 → z = 0) ∧ (s.max = 0xFFFFFFFFFFFFFFFF → c = 1)) ∧
  (∀ (s : State) (q : Word),
    exec .undo { s with position := q } = mapNext (fun t => { t with position := q }) (exec .undo s)) ∧
  resultOf (exec .undo (fixture3With .undo 3)) = 2

/-- 45_permutation.md R284 (PASS_FWD). -/
def Obligations.PassFwdCommand : Prop :=
  CommandWords 0x35 0xFFFFFFFFFFFFFFFF (fun _ => .passFwd) ∧
  AnsweredWith .passFwd noinitOnly ∧
  (∀ (s : State) p, s.pend = some p → s.status.ready = true →
    exec .passFwd s = .next (done s (s.passFwd (p.operand &&& mask s.width)) 0)) ∧
  (∀ (s : State) (x : Word), s.GeneratorInv → s.width = 1 → s.passFwd (x &&& mask s.width) = x &&& mask s.width) ∧
  ([0, 1, 2, 3].map fun z => resultOf (exec .passFwd (fixture3With .passFwd z))) = [0, 1, 3, 2]

/-- 45_permutation.md R285 (PASS_INV). -/
def Obligations.PassInvCommand : Prop :=
  CommandWords 0x36 0xFFFFFFFFFFFFFFFF (fun _ => .passInv) ∧
  AnsweredWith .passInv noinitOnly ∧
  (∀ (s : State) p, s.pend = some p → s.status.ready = true →
    exec .passInv s = .next (done s (s.passInv (p.operand &&& mask s.width)) 0)) ∧
  (∀ (s : State) (x : Word), s.GeneratorInv →
    s.passInv (s.passFwd (x &&& mask s.width)) = x &&& mask s.width) ∧
  resultOf (exec .passInv (fixture3With .passInv 3)) = 2

/-! ### The units' mathematics -/

/-- 41_modinv.md R142 and R143: on every odd `x` the loop ends within 5 iterations with the unique `y` such that
`x * y = 1`; the bound 5 is reached. -/
def Obligations.ModinvIsTheUniqueInverseWithinFive : Prop :=
  (∀ x : Word, x.getLsbD 0 = true →
    x * (modinv x).1 = 1 ∧ (∀ y, x * y = 1 → y = (modinv x).1) ∧ (modinv x).2 ≤ 5 ∧
    ∀ (fuel : Nat), 5 ≤ fuel → modinvLoop x fuel x 0 = modinv x) ∧
  (modinv 3).2 = 5

/-- 42_gf2_matrix.md R160: entry `(i, k)` of the product is the XOR over `j < n` of `a[i][j] AND b[j][k]`; every other
bit of the 64 rows is 0; the result is well-formed of size `n`. -/
def Obligations.MultiplyEntries : Prop :=
  ∀ (a b : BitMatrix) (n : Nat), 1 ≤ n → n ≤ 64 →
    (multiply a b n).wfSize n ∧
    ∀ i k, bit (rowAt (multiply a b n) i) k =
      (decide (i < n) && decide (k < n) && parity (fun j => bit (rowAt a i) j && bit (rowAt b j) k) n)

/-- 42_gf2_matrix.md R161: the multiplier is associative, has `I_n` as identity on both sides, is not commutative, and
the product of two invertible matrices is invertible with `(a·b)⁻¹ = b⁻¹·a⁻¹`. -/
def Obligations.MultiplierLaws : Prop :=
  (∀ (n : Nat), 1 ≤ n → n ≤ 64 → ∀ a b c : BitMatrix, a.wfSize n → b.wfSize n → c.wfSize n →
    multiply (multiply a b n) c n = multiply a (multiply b c n) n ∧
    multiply (identity n) b n = b ∧ multiply a (identity n) n = a) ∧
  (∃ (n : Nat) (a b : BitMatrix), 1 ≤ n ∧ n ≤ 64 ∧ a.wfSize n ∧ b.wfSize n ∧ multiply a b n ≠ multiply b a n) ∧
  (∀ (n : Nat), 1 ≤ n → n ≤ 64 → ∀ a a' b b' : BitMatrix, a.wfSize n → a'.wfSize n → b.wfSize n → b'.wfSize n →
    multiply a a' n = identity n → multiply a' a n = identity n →
    multiply b b' n = identity n → multiply b' b n = identity n →
    multiply (multiply a b n) (multiply b' a' n) n = identity n ∧
    multiply (multiply b' a' n) (multiply a b n) n = identity n)

/-- 42_gf2_matrix.md R163: the rows of `inv_lower(L, n)`; it is unit lower-triangular and a right inverse of `L`. -/
def Obligations.LowerInverseByForwardSubstitution : Prop :=
  ∀ (l : BitMatrix) (n : Nat), 1 ≤ n → n ≤ 64 → UnitLower l n →
    (∀ i < n, rowAt (invLower l n) i = unitVec i ^^^ xorOver (rowAt l i) (rowAt (invLower l n)) i) ∧
    (∀ i, n ≤ i → rowAt (invLower l n) i = 0) ∧
    UnitLower (invLower l n) n ∧ multiply l (invLower l n) n = identity n

/-- 42_gf2_matrix.md R164: the rows of `inv_upper(U, n)`; it is unit upper-triangular, the inverse of `U` on both sides,
and the only right inverse. -/
def Obligations.UpperInverseByBackSubstitution : Prop :=
  ∀ (u : BitMatrix) (n : Nat), 1 ≤ n → n ≤ 64 → UnitUpper u n →
    (∀ i < n, rowAt (invUpper u n) i =
      unitVec i ^^^ xorOver (rowAt u i) (fun j => if i < j then rowAt (invUpper u n) j else 0) n) ∧
    (∀ i, n ≤ i → rowAt (invUpper u n) i = 0) ∧
    UnitUpper (invUpper u n) n ∧ multiply u (invUpper u n) n = identity n ∧
    multiply (invUpper u n) u n = identity n ∧
    ∀ r : BitMatrix, r.wfSize n → multiply u r n = identity n → r = invUpper u n

/-- 42_gf2_matrix.md R166: the entries of the factors `A` and `B`, bit by bit from the row draws; rows at or above `n`
are 0, and for `i = 63` the row of `B` is `e(63)`. -/
def Obligations.FactorEntriesComeFromDisjointDrawBits : Prop :=
  (∀ (n : Nat) (r : Nat → Word), 1 ≤ n → n ≤ 64 →
    (∀ i < n, ∀ j < n,
      bit (rowAt (lowerFactor n r) i) j = (if j < i then bit (r i) j else decide (j = i)) ∧
      bit (rowAt (upperFactor n r) i) j = (if i < j then bit (r i) j else decide (j = i))) ∧
    (∀ i, n ≤ i → rowAt (lowerFactor n r) i = 0 ∧ rowAt (upperFactor n r) i = 0) ∧
    UnitLower (lowerFactor n r) n ∧ UnitUpper (upperFactor n r) n ∧
    (∀ i < n, rowAt (lowerFactor n r) i = (r i &&& (unitVec i - 1)) ||| unitVec i ∧
      rowAt (upperFactor n r) i = (r i &&& mask n &&& ~~~(unitVec i ||| (unitVec i - 1))) ||| unitVec i)) ∧
  (∀ r : Nat → Word, rowAt (upperFactor 64 r) 63 = unitVec 63)

/-- 42_gf2_matrix.md R168: for every draw sequence the generated pair are inverse to each other and well-formed; with
R170, for `n = 1` both are `I_1` whatever the draw. -/
def Obligations.GeneratedMatricesAreInvertible : Prop :=
  (∀ (n : Nat) (r : Nat → Word), 1 ≤ n → n ≤ 64 →
    multiply (genMatrix n r) (genInverse n r) n = identity n ∧
    multiply (genInverse n r) (genMatrix n r) n = identity n ∧
    (genMatrix n r).wfSize n ∧ (genInverse n r).wfSize n) ∧
  (∀ r : Nat → Word, genMatrix 1 r = identity 1 ∧ genInverse 1 r = identity 1)

/-- 42_gf2_matrix.md R169, its last part: draws that differ in a bit the factors use give distinct factor pairs and
distinct matrices `M`, and every generated matrix is a product of a unit lower and a unit upper triangular one. -/
def Obligations.DistinctDrawsGiveDistinctMatrices : Prop :=
  ∀ (n : Nat) (r q : Nat → Word), 1 ≤ n → n ≤ 64 →
    ((∃ i < n, ∃ j < n, i ≠ j ∧ bit (r i) j ≠ bit (q i) j) →
      ¬ (lowerFactor n r = lowerFactor n q ∧ upperFactor n r = upperFactor n q) ∧
      genMatrix n r ≠ genMatrix n q) ∧
    ∃ l u : BitMatrix, UnitLower l n ∧ UnitUpper u n ∧ genMatrix n r = multiply l u n

/-- 43_stage_bank.md R200 with the draw order of R201: draw `k·(n+1)+i` is row draw `r[i]` of stage `k`, draw
`k·(n+1)+n` its multiplier draw, forced odd; IMULT is its 64-bit inverse. That the stage then satisfies 10_state.md R41 is
an inference that the spec marks as derived (R41, 45_permutation.md R276). -/
def Obligations.BankIsBuiltFromTheDrawsInOrder : Prop :=
  ∀ (n : Nat) (ds : List Word) (k : Fin 4), 1 ≤ n → n ≤ 64 → ds.length = 4 * (n + 1) →
    let g := (buildBank n ds)[k]
    let r := fun i => ds.getD (k.val * (n + 1) + i) 0
    g.m = genMatrix n r ∧ g.minv = genInverse n r ∧
    g.mult = ds.getD (k.val * (n + 1) + n) 0 ||| 1 ∧
    g.mult * g.imult = 1 ∧ g.Inv n ∧
    ∀ i ≤ n, k.val * (n + 1) + i < ds.length

/-- 43_stage_bank.md R204: `matvec` is `multiply` with the single row `z` on the left, composes as the product does, and
ignores the bits of `z` at or above `n`. -/
def Obligations.MatvecIsARowTimesTheMatrix : Prop :=
  ∀ (x y : BitMatrix) (z : Word) (n : Nat), 1 ≤ n → n ≤ 64 →
    matvec x z n = rowAt (multiply (BitMatrix.zero.set 0 z) x n) 0 ∧
    matvec x (matvec y z n) n = matvec (multiply y x n) z n ∧
    matvec x (z &&& mask n) n = matvec x z n ∧
    matvec x z n = xorOver z (rowAt x) n &&& mask n

/-- 43_stage_bank.md R203, R205, R206: the Weyl, matrix and Lehmer steps and their inverses on `n`-bit values. -/
def Obligations.SubStepsHaveInverses : Prop :=
  ∀ (g : Stage) (n : Nat) (z : Word), 1 ≤ n → n ≤ 64 → g.Inv n →
    weyl n z = (z + 0x9E3779B97F4A7C15) &&& mask n ∧ unweyl n z = (z - 0x9E3779B97F4A7C15) &&& mask n ∧
    (weyl n z).toNat = (z.toNat + (0x9E3779B97F4A7C15 &&& mask n : Word).toNat) % 2 ^ n ∧
    unweyl n (weyl n z) = z &&& mask n ∧ weyl n (unweyl n z) = z &&& mask n ∧
    matvec g.minv (matvec g.m z n) n = z &&& mask n ∧ matvec g.m (matvec g.minv z n) n = z &&& mask n ∧
    lehmer n (lehmer n z g.mult) g.imult = z &&& mask n ∧ lehmer n (lehmer n z g.imult) g.mult = z &&& mask n

/-- 43_stage_bank.md R209, with R207's remark that masking once at the end of a stage gives the same value: the forward
and the inverse stage undo each other on `[0, 2^n)`. -/
def Obligations.StagesUndoEachOther : Prop :=
  ∀ (g : Stage) (n : Nat) (z : Word), 1 ≤ n → n ≤ 64 → g.Inv n → z.toNat < 2 ^ n →
    stageInv g n (stageFwd g n z) = z ∧ stageFwd g n (stageInv g n z) = z ∧
    (stageFwd g n z).toNat < 2 ^ n ∧ (stageInv g n z).toNat < 2 ^ n ∧
    stageFwd g n z = (xorOver (z + 0x9E3779B97F4A7C15) (rowAt g.m) n * g.mult) &&& mask n

/-- 44_mix.md R248 with R246: on `n`-bit values `unxs` inverts `xs` exactly, on both sides, for every width and every
shift `>= 1`; for `s >= n`, `xs` is the identity. -/
def Obligations.UnxsInvertsXsExactly : Prop :=
  ∀ (n s : Nat) (z : Word), 1 ≤ n → n ≤ 64 → 1 ≤ s → z.toNat < 2 ^ n →
    unxs (xs z s) s n = z ∧ xs (unxs z s n) s = z ∧ (xs z s).toNat < 2 ^ n ∧ (unxs z s n).toNat < 2 ^ n ∧
    (n ≤ s → xs z s = z)

/-- 44_mix.md R249: under MIX_ROM_WF (R243) the forward and the inverse mix undo each other on `[0, 2^n)`, for the row
given. Every row of the model's ROM satisfies MIX_ROM_WF, and rows 1..7 are all ones (R242): below width 8 the mix is
`z ^ (z>>1) ^ (z>>2) ^ (z>>3)`, not the identity for any width `>= 2` (90_conflicts.md C2). -/
def Obligations.MixesUndoEachOther : Prop :=
  (∀ (r : MixRow) (n : Nat) (z : Word), r.WF → 1 ≤ n → n ≤ 64 → z.toNat < 2 ^ n →
    mixUnapply r n (mixApply r n z) = z ∧ mixApply r n (mixUnapply r n z) = z ∧
    (mixApply r n z).toNat < 2 ^ n ∧ (mixUnapply r n z).toNat < 2 ^ n) ∧
  (∀ w, 1 ≤ w → w ≤ 64 → (mixRow w).WF) ∧
  (∀ w, 1 ≤ w → w ≤ 7 → mixRow w = ⟨1, 1, 1, 1, 1, 1, 1⟩) ∧
  (∀ (w : Nat) (z : Word), 1 ≤ w → w ≤ 7 → z.toNat < 2 ^ w →
    mixApply (mixRow w) w z = z ^^^ (z >>> 1) ^^^ (z >>> 2) ^^^ (z >>> 3)) ∧
  (∀ w, 2 ≤ w → w ≤ 7 → ∃ z : Word, z.toNat < 2 ^ w ∧ mixApply (mixRow w) w z ≠ z)

/-- 45_permutation.md R270: `bitwidth` is the least width in 1..64 whose mask reaches `max`, and the closed form
`max(1, 64 - clz64(max))`. The last two clauses are R271, which the spec marks as derived: `MAX >= 2^(n-1)` where `n >= 2`,
and 0 or 1 where `n = 1`. -/
def Obligations.BitwidthIsTheLeastWidth : Prop :=
  ∀ m : Word,
    1 ≤ bitwidth m ∧ bitwidth m ≤ 64 ∧ m ≤ mask (bitwidth m) ∧
    (∀ w, 1 ≤ w → w ≤ 64 → m ≤ mask w → bitwidth m ≤ w) ∧
    bitwidth m = Nat.max 1 (64 - m.clz.toNat) ∧
    (2 ≤ bitwidth m → 2 ^ (bitwidth m - 1) ≤ m.toNat) ∧
    (bitwidth m = 1 → m = 0 ∨ m = 1)

/-! ### The permutation -/

/-- 45_permutation.md R272: the passes are the four stages and the mix in the order given, and in a GeneratorState they
are mutually inverse on `[0, 2^n)` (MIX_ROM_WF holds of the model's ROM by its type). -/
def Obligations.PassesAreMutuallyInverse : Prop :=
  (∀ (s : State) (z : Word), s.width ≤ 64 →
    s.passFwd z = mixApply (mixRow s.width) s.width
      (stageFwd s.bank[3] s.width (stageFwd s.bank[2] s.width
        (stageFwd s.bank[1] s.width (stageFwd s.bank[0] s.width (z &&& mask s.width))))) ∧
    s.passInv z = stageInv s.bank[0] s.width (stageInv s.bank[1] s.width
      (stageInv s.bank[2] s.width (stageInv s.bank[3] s.width
        (mixUnapply (mixRow s.width) s.width (z &&& mask s.width)))))) ∧
  (∀ (s : State) (z : Word), s.GeneratorInv → z.toNat < 2 ^ s.width →
    s.passInv (s.passFwd z) = z ∧ s.passFwd (s.passInv z) = z ∧
    (s.passFwd z).toNat < 2 ^ s.width ∧ (s.passInv z).toNat < 2 ^ s.width)

/-- 45_permutation.md R279: from any POSITION of an idle GeneratorState, `MAX + 1` consecutive NEXTs return `MAX + 1`
pairwise distinct values, no NEXT ever returns a value above MAX, and the sequence repeats with period `MAX + 1`. -/
def Obligations.NextEnumeratesAPermutation : Prop :=
  ∀ s : State, s.status.busy = false → s.status.ready = true → s.GeneratorInv →
    (∀ i j, i < j → j ≤ s.max.toNat → nextValue s i ≠ nextValue s j) ∧
    (∀ i, nextValue s i ≤ s.max) ∧
    (∀ i, nextValue s (i + (s.max.toNat + 1)) = nextValue s i)

/-- 45_permutation.md R282: for every `x <= MAX`, UNDO returns the unique position `p <= MAX` whose NEXT returns `x`, with
the COUNT that NEXT reports there; every `x <= MAX` is some NEXT's value; and from a fresh state UNDO of the value of
NEXT number `i` is `i mod (MAX + 1)`. -/
def Obligations.UndoRecoversThePosition : Prop :=
  ∀ s : State, s.GeneratorInv →
    (∀ p : Word, p ≤ s.max → ∃ (v : Word) (c : Nat), v ≤ s.max ∧
      s.walkFwd p = some (v, c) ∧ s.walkInv v = some (p, c)) ∧
    (∀ x : Word, x ≤ s.max → ∃ (p : Word) (c : Nat), p ≤ s.max ∧
      s.walkInv x = some (p, c) ∧ s.walkFwd p = some (x, c) ∧
      ∀ q c', q ≤ s.max → s.walkFwd q = some (x, c') → q = p) ∧
    (s.status.busy = false → s.status.ready = true → s.position = 0 →
      ∀ i : Nat, ∃ c, s.walkInv (nextValue s i) = some (BitVec.ofNat 64 (i % (s.max.toNat + 1)), c))

/-- 45_permutation.md R283: NEXT from any `p <= MAX` and UNDO from any `x <= MAX` make at most `2^n - MAX` passes, which is
at most `2^(n-1)` for `n >= 2` and 1 when `MAX = mask(n)`. -/
def Obligations.WalksEndWithinTheBound : Prop :=
  ∀ (s : State) (p : Word), s.GeneratorInv → p ≤ s.max →
    ∃ v c w d, s.walkFwd p = some (v, c) ∧ s.walkInv p = some (w, d) ∧
      c ≤ 2 ^ s.width - s.max.toNat ∧ d ≤ 2 ^ s.width - s.max.toNat ∧
      (2 ≤ s.width → 2 ^ s.width - s.max.toNat ≤ 2 ^ (s.width - 1)) ∧
      (s.max = mask s.width → c = 1 ∧ d = 1)

/-! ### The whole machine -/

/-- The block agent's step on a latched word that decodes is `exec` of the command, with the event spent that gave it the
turn; and the host's interface stores a table word so that the very next step is that. (The events and `withFetchWord`
are the model's, log 5.) -/
def Obligations.StepRunsTheLatchedCommand : Prop :=
  (∀ (s : State) p i, s.inputs = [] → s.pend = some p → decodeWord p.word = .instr i → step s = exec i s) ∧
  (∀ (s : State) p i rest, s.inputs = .block :: rest → s.pend = some p → decodeWord p.word = .instr i →
    step s = exec i { s with inputs := rest }) ∧
  (∀ (s : State) (w : Nat) i, decodeTableWord 64 w = some i →
    step (s.withFetchWord 64 w) = exec i { s with
      pend := some ⟨BitVec.ofNat 64 w, s.operand⟩, status := { s.status with busy := true }, taken := [] })

/-- 60_exceptions.md R327: every outcome is a defined step. From every state the machine goes on, never by a fault or a
refusal; and while no event comes, an idle block holds its state (R335). Three parts of it are the model's choice: a starved
command, which R83 and R327 call stuck, answers a next state that stays busy (log 7, DEDUCED); a latched command whose checks
fail, in states outside the invariant, ends as a rejection (log 3, DESIGN CHOICE); and a rejection loop without end, which
no GeneratorState has, leaves the block busy (log 9, DEDUCED). -/
def Obligations.EveryStepGoesOn : Prop :=
  (∀ s : State, ∃ t, step s = .next t) ∧
  (∀ s : State, s.inputs = [] → s.pend = none → step s = .next s)

/-- 10_state.md R49 and 70_reset_and_hazards.md R350: the values after reset of everything whose value the spec gives; a
reset in any state gives them, aborts an executing command and loses the draws it had taken, and `ent_ready` is 0. That one
event is the whole reset (log 10) and that the fields `entropy` and `inputs` go on over it (log 5) are the model's choice,
both DESIGN CHOICE. -/
def Obligations.ResetValues : Prop :=
  let Blank := fun t : State =>
    t.status = ⟨false, false, false, .ok⟩ ∧ t.status.toWord = 0 ∧ t.operand = 0 ∧ t.result = 0 ∧ t.max = 0 ∧
    t.position = 0 ∧ t.bits = 0 ∧ t.count = 0 ∧ (∀ (b : Fin 3) (j : Fin 64), t.scr[b][j] = 0) ∧
    t.pend = none ∧ t.taken = [] ∧ t.readReg .id = 0x5052504700000001 ∧ t.entReady = false
  Blank State.reset ∧
  ∀ (s t : State) rest, s.inputs = .rst :: rest → step s = .next t →
    Blank t ∧ t.entropy = s.entropy ∧ t.inputs = rest

/-- The invariant holds at reset. -/
def Obligations.InvariantHoldsAtReset : Prop := State.reset.Inv

/-- Every step keeps the invariant of the block: the latch agrees with BUSY and with acceptance (R44, R110, R111), a
READY block holds a GeneratorState with the invariants of 10_state.md R41, whatever the draws were (45_permutation.md
R276), and before INIT the bound registers are 0. -/
def Obligations.EveryStepKeepsTheInvariant : Prop :=
  ∀ s t : State, s.Inv → step s = .next t → t.Inv

/-- 60_exceptions.md R324: an accepted command is never turned back. The block agent's step on it commits with ERR = 0, or
the command waits for entropy: the draws it holds with the words on offer are fewer than it needs, and it stays latched with
BUSY and ERR as they were. -/
def Obligations.NoErrorAfterAcceptance : Prop :=
  ∀ s t : State, s.Inv → s.status.busy = true → blockStep s = .next t →
    (t.status.busy = false ∧ t.pend = none ∧ t.status.err = .ok) ∨
    (t.status.busy = true ∧ t.pend = s.pend ∧ t.status.err = s.status.err ∧
      ∃ p i, s.pend = some p ∧ decodeWord p.word = .instr i ∧
        s.taken.length + s.entropy.length < drawsNeeded i p.operand)

/-- 70_reset_and_hazards.md R352: while READY = 0 the contents of the stage bank cannot change any observation: two
states that differ only there step to the same state, or to states that still differ only there with READY = 0. -/
def Obligations.BankIsUnobservableBeforeInit : Prop :=
  ∀ (s : State) (b : Vector Stage 4), s.status.ready = false →
    SameButUnwrittenBank (step s) (step { s with bank := b })

/-- 10_state.md R47: each register or store is written only by the commits listed for it, by the host where it may write
it, and by reset. R48: no command but an INIT changes MAX, BITS or the stage bank; NEXT changes only POSITION, RESULT,
COUNT and STATUS of the registers and stores, and UNDO only RESULT, COUNT and STATUS. -/
def Obligations.WriteTable : Prop :=
  (∀ s t : State, s.LatchInv → step s = .next t → ¬ ResetsNow s →
    (t.operand ≠ s.operand → ∃ v, WritesNow s .operand v ∧ t.operand = v) ∧
    (t.result ≠ s.result → ∃ i, ExecutesNow s i ∧ writesResult i = true) ∧
    (t.max ≠ s.max ∨ t.bits ≠ s.bits ∨ t.bank ≠ s.bank → ExecutesNow s .init) ∧
    (t.position ≠ s.position → ExecutesNow s .init ∨ ExecutesNow s .next) ∧
    (t.count ≠ s.count → ∃ i, ExecutesNow s i) ∧
    (t.scr ≠ s.scr → ∃ i, ExecutesNow s i ∧ writesScratch i = true) ∧
    (t.scr[0] ≠ s.scr[0] ∨ t.scr[1] ≠ s.scr[1] → ExecutesNow s .genmat ∨ ∃ k row, ExecutesNow s (.scrWr k row)) ∧
    (t.scr[2] ≠ s.scr[2] → ExecutesNow s .matmul ∨ ∃ k row, ExecutesNow s (.scrWr k row)) ∧
    (t.status.ready ≠ s.status.ready → t.status.ready = true ∧ ExecutesNow s .init) ∧
    (t.status.ovr = true ∧ s.status.ovr = false → s.status.busy = true ∧ ∃ v, WritesNow s .cmd v) ∧
    (t.status.ovr = false ∧ s.status.ovr = true → ExecutesNow s .clrerr) ∧
    (t.status.busy = true ∧ s.status.busy = false →
      ∃ v, WritesNow s .cmd v ∧ t.pend = some ⟨v, s.operand⟩) ∧
    (t.status.busy = false ∧ s.status.busy = true → t.pend = none ∧ ∃ i, ExecutesNow s i) ∧
    (t.status.err ≠ s.status.err →
      (s.status.busy = false ∧ t.status.err ≠ .ok ∧ ∃ v, WritesNow s .cmd v) ∨
      (t.status.err = .ok ∧ ∃ i, ExecutesNow s i))) ∧
  (∀ i s t, i ≠ .init → exec i s = .next t → t.max = s.max ∧ t.bits = s.bits ∧ t.bank = s.bank) ∧
  (∀ s t, exec .next s = .next t → t.operand = s.operand ∧ t.scr = s.scr ∧ t.entropy = s.entropy ∧
    t.status.ready = s.status.ready ∧ t.status.ovr = s.status.ovr) ∧
  (∀ s t, exec .undo s = .next t → t.position = s.position ∧ t.operand = s.operand ∧ t.scr = s.scr ∧
    t.entropy = s.entropy ∧ t.status.ready = s.status.ready ∧ t.status.ovr = s.status.ovr)

/-- 70_reset_and_hazards.md R362 and 20_memory.md R86: a step that leaves the block busy with the command it was busy with
(a command that waits for draws) changes no register the host can read but OVR and the host's own OPERAND; results
appear only in the step that clears BUSY. -/
def Obligations.ResultsAppearOnlyAtTheCommit : Prop :=
  ∀ s t : State, s.Inv → step s = .next t → ¬ ResetsNow s → s.status.busy = true →
    (t.status.busy = true →
      t.result = s.result ∧ t.count = s.count ∧ t.position = s.position ∧ t.max = s.max ∧ t.bits = s.bits ∧
      t.bank = s.bank ∧ t.scr = s.scr ∧ t.pend = s.pend ∧
      t.status.ready = s.status.ready ∧ t.status.err = s.status.err) ∧
    (t.status.busy = false → t.pend = none ∧ t.operand = s.operand ∧ ∃ i, ExecutesNow s i)

/-- 20_memory.md R82: INIT consumes exactly `4·(BITS+1)` draws and GENMAT exactly `n`, in the order offered, and no other
command and no idle step takes a word from the port. Two parts are the model's choice: the queue `entropy` as the form of the oracle (log 5, DESIGN
CHOICE), and that a command which stays busy holds every word offered so far (log 7, DEDUCED). -/
def Obligations.OnlyInitAndGenmatDraw : Prop :=
  (∀ s t : State, step s = .next t → s.entropy ≠ t.entropy →
    (∃ w rest, s.inputs = .offer w :: rest ∧ t.entropy = s.entropy ++ [w]) ∨
    ExecutesNow s .init ∨ ExecutesNow s .genmat) ∧
  (∀ (s t : State) i, s.Inv → ExecutesNow s i → step s = .next t → ∀ p, s.pend = some p →
    ∃ ds, s.taken ++ s.entropy = ds ++ t.entropy ∧
      ((t.status.busy = false ∧ ds.length = drawsNeeded i p.operand ∧ t.taken = []) ∨
        (t.status.busy = true ∧ t.taken = ds ∧ t.entropy = [] ∧ ds.length < drawsNeeded i p.operand))) ∧
  (∀ max : Word, drawsNeeded .init max = 4 * (bitwidth max + 1)) ∧
  (∀ n : Word, drawsNeeded .genmat n = n.toNat)

/-- 30_encoding.md R112, last sentence, with the host's `wait` (R114): a latched command whose draws have all been offered
ends under one polling round, after which the host has read STATUS with BUSY = 0 and the latch is empty. (That the block
agent moves between two polls is the model's choice, log 4.) -/
def Obligations.WaitEndsOnceTheDrawsAreOffered : Prop :=
  ∀ (s : State) p i rest, s.Inv → s.inputs = .wait :: rest → s.pend = some p → decodeWord p.word = .instr i →
    drawsNeeded i p.operand ≤ s.taken.length + s.entropy.length →
    ∃ t u v, step s = .next t ∧ step t = .next u ∧ step u = .next v ∧
      v.pend = none ∧ v.status.busy = false ∧ v.status.err = .ok ∧ v.inputs = rest ∧
      v.resp = some (.data v.status.toWord) ∧ bit v.status.toWord 0 = false
end

