-- ==== Sys2Proof/Laws/Decode.lean ====
section
/-! SUPPORT. The fields of a command word that `commandWord` makes (30_encoding.md R100, R116), and the table's rows. -/

namespace Sys2Proof

@[simp] theorem opField_commandWord (op : BitVec 8) (k : BitVec 2) (sel : Select) (row : BitVec 6) :
    opField (commandWord op k sel row) = op := by
  ext i hi
  simp [opField, commandWord, show i < 10 by omega, show i < 16 by omega, hi]
  omega

@[simp] theorem kField_commandWord (op : BitVec 8) (k : BitVec 2) (sel : Select) (row : BitVec 6) :
    kField (commandWord op k sel row) = k := by
  ext i hi
  simp [kField, commandWord, show 8 + i < 10 by omega, show 8 + i < 16 by omega, show 8 + i < 64 by omega, hi]

@[simp] theorem rowField_commandWord (op : BitVec 8) (k : BitVec 2) (sel : Select) (row : BitVec 6) :
    rowField (commandWord op k sel row) = row := by
  ext i hi
  have hop : op.getLsbD (16 + i) = false := BitVec.getLsbD_of_ge _ _ (by omega)
  have hk : k.getLsbD (16 + i - 8) = false := BitVec.getLsbD_of_ge _ _ (by omega)
  have hs : sel.toBit.getLsbD (16 + i - 10) = false := BitVec.getLsbD_of_ge _ _ (by omega)
  simp [rowField, commandWord, hop, hk, hs, show 16 + i < 64 by omega, hi]

@[simp] theorem sField_commandWord (op : BitVec 8) (k : BitVec 2) (sel : Select) (row : BitVec 6) :
    sField (commandWord op k sel row) = sel := by
  cases sel <;> simp [sField, commandWord, Select.toBit]

/-- The row a decoder finds has the opcode asked for. -/
theorem opcodeRow?_op {op : BitVec 8} {r : OpcodeRow} (h : opcodeRow? op = some r) : r.op = op := by
  simpa using List.find?_some h

end Sys2Proof
end

