-- ==== Sys2Proof/Laws/State.lean ====
section
/-! SUPPORT. One lemma per field per update of the state, each true by unfolding the update. -/

namespace Sys2Proof.Machine

open Sys2Proof

variable (s : State)

/-! ### `State.reject` -/

@[simp] theorem State.reject_status (e : ErrCode) : (s.reject e).status = { s.status with err := e } := rfl
@[simp] theorem State.reject_operand (e : ErrCode) : (s.reject e).operand = s.operand := rfl
@[simp] theorem State.reject_result (e : ErrCode) : (s.reject e).result = s.result := rfl
@[simp] theorem State.reject_max (e : ErrCode) : (s.reject e).max = s.max := rfl
@[simp] theorem State.reject_position (e : ErrCode) : (s.reject e).position = s.position := rfl
@[simp] theorem State.reject_bits (e : ErrCode) : (s.reject e).bits = s.bits := rfl
@[simp] theorem State.reject_count (e : ErrCode) : (s.reject e).count = s.count := rfl
@[simp] theorem State.reject_bank (e : ErrCode) : (s.reject e).bank = s.bank := rfl
@[simp] theorem State.reject_scr (e : ErrCode) : (s.reject e).scr = s.scr := rfl
@[simp] theorem State.reject_pend (e : ErrCode) : (s.reject e).pend = s.pend := rfl
@[simp] theorem State.reject_taken (e : ErrCode) : (s.reject e).taken = s.taken := rfl
@[simp] theorem State.reject_entropy (e : ErrCode) : (s.reject e).entropy = s.entropy := rfl
@[simp] theorem State.reject_inputs (e : ErrCode) : (s.reject e).inputs = s.inputs := rfl
@[simp] theorem State.reject_resp (e : ErrCode) : (s.reject e).resp = s.resp := rfl

/-! ### `State.accept` -/

@[simp] theorem State.accept_status (v : Word) : (s.accept v).status = { s.status with busy := true } := rfl
@[simp] theorem State.accept_operand (v : Word) : (s.accept v).operand = s.operand := rfl
@[simp] theorem State.accept_result (v : Word) : (s.accept v).result = s.result := rfl
@[simp] theorem State.accept_max (v : Word) : (s.accept v).max = s.max := rfl
@[simp] theorem State.accept_position (v : Word) : (s.accept v).position = s.position := rfl
@[simp] theorem State.accept_bits (v : Word) : (s.accept v).bits = s.bits := rfl
@[simp] theorem State.accept_count (v : Word) : (s.accept v).count = s.count := rfl
@[simp] theorem State.accept_bank (v : Word) : (s.accept v).bank = s.bank := rfl
@[simp] theorem State.accept_scr (v : Word) : (s.accept v).scr = s.scr := rfl
@[simp] theorem State.accept_pend (v : Word) : (s.accept v).pend = some ⟨v, s.operand⟩ := rfl
@[simp] theorem State.accept_taken (v : Word) : (s.accept v).taken = s.taken := rfl
@[simp] theorem State.accept_entropy (v : Word) : (s.accept v).entropy = s.entropy := rfl
@[simp] theorem State.accept_inputs (v : Word) : (s.accept v).inputs = s.inputs := rfl
@[simp] theorem State.accept_resp (v : Word) : (s.accept v).resp = s.resp := rfl

/-! ### `State.commit` -/

@[simp] theorem State.commit_status (c : Word) : (s.commit c).status = { s.status with err := .ok, busy := false } := rfl
@[simp] theorem State.commit_operand (c : Word) : (s.commit c).operand = s.operand := rfl
@[simp] theorem State.commit_result (c : Word) : (s.commit c).result = s.result := rfl
@[simp] theorem State.commit_max (c : Word) : (s.commit c).max = s.max := rfl
@[simp] theorem State.commit_position (c : Word) : (s.commit c).position = s.position := rfl
@[simp] theorem State.commit_bits (c : Word) : (s.commit c).bits = s.bits := rfl
@[simp] theorem State.commit_count (c : Word) : (s.commit c).count = c := rfl
@[simp] theorem State.commit_bank (c : Word) : (s.commit c).bank = s.bank := rfl
@[simp] theorem State.commit_scr (c : Word) : (s.commit c).scr = s.scr := rfl
@[simp] theorem State.commit_pend (c : Word) : (s.commit c).pend = none := rfl
@[simp] theorem State.commit_taken (c : Word) : (s.commit c).taken = s.taken := rfl
@[simp] theorem State.commit_entropy (c : Word) : (s.commit c).entropy = s.entropy := rfl
@[simp] theorem State.commit_inputs (c : Word) : (s.commit c).inputs = s.inputs := rfl
@[simp] theorem State.commit_resp (c : Word) : (s.commit c).resp = s.resp := rfl

/-! ### `State.setResult` -/

@[simp] theorem State.setResult_status (v : Word) : (s.setResult v).status = s.status := rfl
@[simp] theorem State.setResult_operand (v : Word) : (s.setResult v).operand = s.operand := rfl
@[simp] theorem State.setResult_result (v : Word) : (s.setResult v).result = v := rfl
@[simp] theorem State.setResult_max (v : Word) : (s.setResult v).max = s.max := rfl
@[simp] theorem State.setResult_position (v : Word) : (s.setResult v).position = s.position := rfl
@[simp] theorem State.setResult_bits (v : Word) : (s.setResult v).bits = s.bits := rfl
@[simp] theorem State.setResult_count (v : Word) : (s.setResult v).count = s.count := rfl
@[simp] theorem State.setResult_bank (v : Word) : (s.setResult v).bank = s.bank := rfl
@[simp] theorem State.setResult_scr (v : Word) : (s.setResult v).scr = s.scr := rfl
@[simp] theorem State.setResult_pend (v : Word) : (s.setResult v).pend = s.pend := rfl
@[simp] theorem State.setResult_taken (v : Word) : (s.setResult v).taken = s.taken := rfl
@[simp] theorem State.setResult_entropy (v : Word) : (s.setResult v).entropy = s.entropy := rfl
@[simp] theorem State.setResult_inputs (v : Word) : (s.setResult v).inputs = s.inputs := rfl
@[simp] theorem State.setResult_resp (v : Word) : (s.setResult v).resp = s.resp := rfl

/-! ### `State.abort` -/

@[simp] theorem State.abort_status (e : ErrCode) : (s.abort e).status = { s.status with err := e, busy := false } := rfl
@[simp] theorem State.abort_operand (e : ErrCode) : (s.abort e).operand = s.operand := rfl
@[simp] theorem State.abort_result (e : ErrCode) : (s.abort e).result = s.result := rfl
@[simp] theorem State.abort_max (e : ErrCode) : (s.abort e).max = s.max := rfl
@[simp] theorem State.abort_position (e : ErrCode) : (s.abort e).position = s.position := rfl
@[simp] theorem State.abort_bits (e : ErrCode) : (s.abort e).bits = s.bits := rfl
@[simp] theorem State.abort_count (e : ErrCode) : (s.abort e).count = s.count := rfl
@[simp] theorem State.abort_bank (e : ErrCode) : (s.abort e).bank = s.bank := rfl
@[simp] theorem State.abort_scr (e : ErrCode) : (s.abort e).scr = s.scr := rfl
@[simp] theorem State.abort_pend (e : ErrCode) : (s.abort e).pend = none := rfl
@[simp] theorem State.abort_taken (e : ErrCode) : (s.abort e).taken = [] := rfl
@[simp] theorem State.abort_entropy (e : ErrCode) : (s.abort e).entropy = s.entropy := rfl
@[simp] theorem State.abort_inputs (e : ErrCode) : (s.abort e).inputs = s.inputs := rfl
@[simp] theorem State.abort_resp (e : ErrCode) : (s.abort e).resp = s.resp := rfl

/-! ### `State.clearOvr` -/

@[simp] theorem State.clearOvr_status : (s.clearOvr).status = { s.status with ovr := false } := rfl
@[simp] theorem State.clearOvr_operand : (s.clearOvr).operand = s.operand := rfl
@[simp] theorem State.clearOvr_result : (s.clearOvr).result = s.result := rfl
@[simp] theorem State.clearOvr_max : (s.clearOvr).max = s.max := rfl
@[simp] theorem State.clearOvr_position : (s.clearOvr).position = s.position := rfl
@[simp] theorem State.clearOvr_bits : (s.clearOvr).bits = s.bits := rfl
@[simp] theorem State.clearOvr_count : (s.clearOvr).count = s.count := rfl
@[simp] theorem State.clearOvr_bank : (s.clearOvr).bank = s.bank := rfl
@[simp] theorem State.clearOvr_scr : (s.clearOvr).scr = s.scr := rfl
@[simp] theorem State.clearOvr_pend : (s.clearOvr).pend = s.pend := rfl
@[simp] theorem State.clearOvr_taken : (s.clearOvr).taken = s.taken := rfl
@[simp] theorem State.clearOvr_entropy : (s.clearOvr).entropy = s.entropy := rfl
@[simp] theorem State.clearOvr_inputs : (s.clearOvr).inputs = s.inputs := rfl
@[simp] theorem State.clearOvr_resp : (s.clearOvr).resp = s.resp := rfl

/-! ### `State.setScratch` -/

@[simp] theorem State.setScratch_status (b : Nat) (x : BitMatrix) : (s.setScratch b x).status = s.status := rfl
@[simp] theorem State.setScratch_operand (b : Nat) (x : BitMatrix) : (s.setScratch b x).operand = s.operand := rfl
@[simp] theorem State.setScratch_result (b : Nat) (x : BitMatrix) : (s.setScratch b x).result = s.result := rfl
@[simp] theorem State.setScratch_max (b : Nat) (x : BitMatrix) : (s.setScratch b x).max = s.max := rfl
@[simp] theorem State.setScratch_position (b : Nat) (x : BitMatrix) : (s.setScratch b x).position = s.position := rfl
@[simp] theorem State.setScratch_bits (b : Nat) (x : BitMatrix) : (s.setScratch b x).bits = s.bits := rfl
@[simp] theorem State.setScratch_count (b : Nat) (x : BitMatrix) : (s.setScratch b x).count = s.count := rfl
@[simp] theorem State.setScratch_bank (b : Nat) (x : BitMatrix) : (s.setScratch b x).bank = s.bank := rfl
@[simp] theorem State.setScratch_scr (b : Nat) (x : BitMatrix) : (s.setScratch b x).scr = s.scr.setIfInBounds b x := rfl
@[simp] theorem State.setScratch_pend (b : Nat) (x : BitMatrix) : (s.setScratch b x).pend = s.pend := rfl
@[simp] theorem State.setScratch_taken (b : Nat) (x : BitMatrix) : (s.setScratch b x).taken = s.taken := rfl
@[simp] theorem State.setScratch_entropy (b : Nat) (x : BitMatrix) : (s.setScratch b x).entropy = s.entropy := rfl
@[simp] theorem State.setScratch_inputs (b : Nat) (x : BitMatrix) : (s.setScratch b x).inputs = s.inputs := rfl
@[simp] theorem State.setScratch_resp (b : Nat) (x : BitMatrix) : (s.setScratch b x).resp = s.resp := rfl

/-! ### `State.setScratchRow` -/

@[simp] theorem State.setScratchRow_status (b : Nat) (row : BitVec 6) (v : Word) : (s.setScratchRow b row v).status = s.status := rfl
@[simp] theorem State.setScratchRow_operand (b : Nat) (row : BitVec 6) (v : Word) : (s.setScratchRow b row v).operand = s.operand := rfl
@[simp] theorem State.setScratchRow_result (b : Nat) (row : BitVec 6) (v : Word) : (s.setScratchRow b row v).result = s.result := rfl
@[simp] theorem State.setScratchRow_max (b : Nat) (row : BitVec 6) (v : Word) : (s.setScratchRow b row v).max = s.max := rfl
@[simp] theorem State.setScratchRow_position (b : Nat) (row : BitVec 6) (v : Word) : (s.setScratchRow b row v).position = s.position := rfl
@[simp] theorem State.setScratchRow_bits (b : Nat) (row : BitVec 6) (v : Word) : (s.setScratchRow b row v).bits = s.bits := rfl
@[simp] theorem State.setScratchRow_count (b : Nat) (row : BitVec 6) (v : Word) : (s.setScratchRow b row v).count = s.count := rfl
@[simp] theorem State.setScratchRow_bank (b : Nat) (row : BitVec 6) (v : Word) : (s.setScratchRow b row v).bank = s.bank := rfl
@[simp] theorem State.setScratchRow_scr (b : Nat) (row : BitVec 6) (v : Word) : (s.setScratchRow b row v).scr = s.scr.setIfInBounds b ((s.scratch b).set row.toNat v (by have := row.isLt; omega)) := rfl
@[simp] theorem State.setScratchRow_pend (b : Nat) (row : BitVec 6) (v : Word) : (s.setScratchRow b row v).pend = s.pend := rfl
@[simp] theorem State.setScratchRow_taken (b : Nat) (row : BitVec 6) (v : Word) : (s.setScratchRow b row v).taken = s.taken := rfl
@[simp] theorem State.setScratchRow_entropy (b : Nat) (row : BitVec 6) (v : Word) : (s.setScratchRow b row v).entropy = s.entropy := rfl
@[simp] theorem State.setScratchRow_inputs (b : Nat) (row : BitVec 6) (v : Word) : (s.setScratchRow b row v).inputs = s.inputs := rfl
@[simp] theorem State.setScratchRow_resp (b : Nat) (row : BitVec 6) (v : Word) : (s.setScratchRow b row v).resp = s.resp := rfl

/-! ### `State.advance` -/

@[simp] theorem State.advance_status : (s.advance).status = s.status := rfl
@[simp] theorem State.advance_operand : (s.advance).operand = s.operand := rfl
@[simp] theorem State.advance_result : (s.advance).result = s.result := rfl
@[simp] theorem State.advance_max : (s.advance).max = s.max := rfl
@[simp] theorem State.advance_position : (s.advance).position = if s.position < s.max then s.position + 1 else 0 := rfl
@[simp] theorem State.advance_bits : (s.advance).bits = s.bits := rfl
@[simp] theorem State.advance_count : (s.advance).count = s.count := rfl
@[simp] theorem State.advance_bank : (s.advance).bank = s.bank := rfl
@[simp] theorem State.advance_scr : (s.advance).scr = s.scr := rfl
@[simp] theorem State.advance_pend : (s.advance).pend = s.pend := rfl
@[simp] theorem State.advance_taken : (s.advance).taken = s.taken := rfl
@[simp] theorem State.advance_entropy : (s.advance).entropy = s.entropy := rfl
@[simp] theorem State.advance_inputs : (s.advance).inputs = s.inputs := rfl
@[simp] theorem State.advance_resp : (s.advance).resp = s.resp := rfl

/-! ### `State.install` -/

@[simp] theorem State.install_status (m : Word) (ds : List Word) : (s.install m ds).status = { s.status with ready := true } := rfl
@[simp] theorem State.install_operand (m : Word) (ds : List Word) : (s.install m ds).operand = s.operand := rfl
@[simp] theorem State.install_result (m : Word) (ds : List Word) : (s.install m ds).result = s.result := rfl
@[simp] theorem State.install_max (m : Word) (ds : List Word) : (s.install m ds).max = m := rfl
@[simp] theorem State.install_position (m : Word) (ds : List Word) : (s.install m ds).position = 0 := rfl
@[simp] theorem State.install_bits (m : Word) (ds : List Word) : (s.install m ds).bits = BitVec.ofNat 7 (bitwidth m) := rfl
@[simp] theorem State.install_count (m : Word) (ds : List Word) : (s.install m ds).count = s.count := rfl
@[simp] theorem State.install_bank (m : Word) (ds : List Word) : (s.install m ds).bank = buildBank (bitwidth m) ds := rfl
@[simp] theorem State.install_scr (m : Word) (ds : List Word) : (s.install m ds).scr = s.scr := rfl
@[simp] theorem State.install_pend (m : Word) (ds : List Word) : (s.install m ds).pend = s.pend := rfl
@[simp] theorem State.install_taken (m : Word) (ds : List Word) : (s.install m ds).taken = s.taken := rfl
@[simp] theorem State.install_entropy (m : Word) (ds : List Word) : (s.install m ds).entropy = s.entropy := rfl
@[simp] theorem State.install_inputs (m : Word) (ds : List Word) : (s.install m ds).inputs = s.inputs := rfl
@[simp] theorem State.install_resp (m : Word) (ds : List Word) : (s.install m ds).resp = s.resp := rfl

/-! ### `State.offer` -/

@[simp] theorem State.offer_status (w : Word) : (s.offer w).status = s.status := rfl
@[simp] theorem State.offer_operand (w : Word) : (s.offer w).operand = s.operand := rfl
@[simp] theorem State.offer_result (w : Word) : (s.offer w).result = s.result := rfl
@[simp] theorem State.offer_max (w : Word) : (s.offer w).max = s.max := rfl
@[simp] theorem State.offer_position (w : Word) : (s.offer w).position = s.position := rfl
@[simp] theorem State.offer_bits (w : Word) : (s.offer w).bits = s.bits := rfl
@[simp] theorem State.offer_count (w : Word) : (s.offer w).count = s.count := rfl
@[simp] theorem State.offer_bank (w : Word) : (s.offer w).bank = s.bank := rfl
@[simp] theorem State.offer_scr (w : Word) : (s.offer w).scr = s.scr := rfl
@[simp] theorem State.offer_pend (w : Word) : (s.offer w).pend = s.pend := rfl
@[simp] theorem State.offer_taken (w : Word) : (s.offer w).taken = s.taken := rfl
@[simp] theorem State.offer_entropy (w : Word) : (s.offer w).entropy = s.entropy ++ [w] := rfl
@[simp] theorem State.offer_inputs (w : Word) : (s.offer w).inputs = s.inputs := rfl
@[simp] theorem State.offer_resp (w : Word) : (s.offer w).resp = s.resp := rfl

/-! ### `State.applyReset`: the block's fields are those of the reset state, the inputs are kept -/

@[simp] theorem State.applyReset_status : s.applyReset.status = State.reset.status := rfl
@[simp] theorem State.applyReset_operand : s.applyReset.operand = State.reset.operand := rfl
@[simp] theorem State.applyReset_result : s.applyReset.result = State.reset.result := rfl
@[simp] theorem State.applyReset_max : s.applyReset.max = State.reset.max := rfl
@[simp] theorem State.applyReset_position : s.applyReset.position = State.reset.position := rfl
@[simp] theorem State.applyReset_bits : s.applyReset.bits = State.reset.bits := rfl
@[simp] theorem State.applyReset_count : s.applyReset.count = State.reset.count := rfl
@[simp] theorem State.applyReset_bank : s.applyReset.bank = State.reset.bank := rfl
@[simp] theorem State.applyReset_scr : s.applyReset.scr = State.reset.scr := rfl
@[simp] theorem State.applyReset_pend : s.applyReset.pend = State.reset.pend := rfl
@[simp] theorem State.applyReset_taken : s.applyReset.taken = State.reset.taken := rfl
@[simp] theorem State.applyReset_entropy : s.applyReset.entropy = s.entropy := rfl
@[simp] theorem State.applyReset_inputs : s.applyReset.inputs = s.inputs := rfl
@[simp] theorem State.applyReset_resp : s.applyReset.resp = State.reset.resp := rfl

end Sys2Proof.Machine
end

