-- ==== Sys2Proof/Laws/Ops.lean ====
section
/-! SUPPORT. What the shared operations can do, once each: the latched run of a meaning, the draws, the CMD write, the
register window. -/

namespace Sys2Proof.Machine

open Sys2Proof

/-! ### The latched run -/

theorem runLatched_empty {i : Instr} {s : State} {body : Word → Out} (h : s.pend = none) :
    runLatched i s body = .fault .latchEmpty := by
  simp [runLatched, h]

theorem runLatched_accepted {i : Instr} {s : State} {body : Word → Out} {p : Pending} (h : s.pend = some p)
    (hc : check i p.operand s = none) : runLatched i s body = body p.operand := by
  simp [runLatched, h, hc]

theorem runLatched_rejected {i : Instr} {s : State} {body : Word → Out} {p : Pending} {e : ErrCode}
    (h : s.pend = some p) (hc : check i p.operand s = some e) : runLatched i s body = .next (s.abort e) := by
  simp [runLatched, h, hc]

/-- Everything a latched run that answers a next state can have done. -/
theorem runLatched_cases {i : Instr} {s t : State} {body : Word → Out} (h : runLatched i s body = .next t) :
    ∃ p, s.pend = some p ∧
      ((∃ e, check i p.operand s = some e ∧ t = s.abort e) ∨
        (check i p.operand s = none ∧ body p.operand = .next t)) := by
  cases hp : s.pend with
  | none => simp [runLatched_empty hp] at h
  | some p =>
    refine ⟨p, rfl, ?_⟩
    cases hc : check i p.operand s with
    | some e =>
      rw [runLatched_rejected hp hc] at h
      cases h
      exact .inl ⟨e, rfl, rfl⟩
    | none =>
      rw [runLatched_accepted hp hc] at h
      exact .inr ⟨rfl, h⟩

/-! ### Draws -/

theorem withDraws_short {need : Nat} {s : State} {body : List Word → State → Out}
    (h : s.taken.length + s.entropy.length < need) :
    withDraws need s body = .next { s with taken := s.taken ++ s.entropy, entropy := [] } := by
  simp [withDraws, h]

theorem withDraws_enough {need : Nat} {s : State} {body : List Word → State → Out}
    (h : need ≤ s.taken.length + s.entropy.length) :
    withDraws need s body = body ((s.taken ++ s.entropy).take need)
      { s with taken := [], entropy := s.entropy.drop (need - s.taken.length) } := by
  simp [withDraws, Nat.not_lt.mpr h]

/-- A command that gets its draws gets exactly as many as it needs. -/
theorem length_take_draws {need : Nat} {s : State} (h : need ≤ s.taken.length + s.entropy.length) :
    ((s.taken ++ s.entropy).take need).length = need := by
  simp [List.length_take, h]

/-! ### The checks -/

theorem check_noinit {i : Instr} {x : Word} {s : State} (hn : needsReady i = true) (hr : s.status.ready = false) :
    check i x s = some .noinit := by
  simp [check, hn, hr]

/-- The checks read READY, BITS and MAX of the state and nothing else. -/
theorem check_congr {i : Instr} {x : Word} {s t : State} (hr : s.status.ready = t.status.ready)
    (hb : s.bits = t.bits) (hm : s.max = t.max) : check i x s = check i x t := by
  have hf : fieldOutOfRange i s = fieldOutOfRange i t := by
    cases i with
    | readRow k sel row =>
      simp only [fieldOutOfRange, State.width, hb]
      rfl
    | _ => rfl
  have ho : operandCheck i x s = operandCheck i x t := by
    cases i <;> simp [operandCheck, hm]
  simp [check, hr, hf, ho]

/-! ### The CMD write -/

theorem issue_busy {s : State} {v : Word} (h : s.status.busy = true) :
    s.issue v = { s with status := { s.status with ovr := true } } := by
  simp [State.issue, h]

theorem issue_undecoded {s : State} {v : Word} {e : DecodeError} (h : s.status.busy = false)
    (hd : decodeWord v = .rejected e) : s.issue v = s.reject (decodeErrCode e) := by
  simp [State.issue, h, hd]

theorem issue_rejected {s : State} {v : Word} {i : Instr} {e : ErrCode} (h : s.status.busy = false)
    (hd : decodeWord v = .instr i) (hc : check i s.operand s = some e) : s.issue v = s.reject e := by
  simp [State.issue, h, hd, hc]

theorem issue_accepted {s : State} {v : Word} {i : Instr} (h : s.status.busy = false)
    (hd : decodeWord v = .instr i) (hc : check i s.operand s = none) : s.issue v = s.accept v := by
  simp [State.issue, h, hd, hc]

/-- Everything a CMD write can do. -/
theorem issue_cases (s : State) (v : Word) :
    (s.status.busy = true ∧ s.issue v = { s with status := { s.status with ovr := true } }) ∨
    (s.status.busy = false ∧ ∃ e, s.issue v = s.reject e) ∨
    (s.status.busy = false ∧ ∃ i, decodeWord v = .instr i ∧ check i s.operand s = none ∧ s.issue v = s.accept v) := by
  cases hb : s.status.busy with
  | true => exact .inl ⟨rfl, issue_busy hb⟩
  | false =>
    right
    cases hd : decodeWord v with
    | rejected e => exact .inl ⟨rfl, _, issue_undecoded hb hd⟩
    | instr i =>
      cases hc : check i s.operand s with
      | some e => exact .inl ⟨rfl, e, issue_rejected hb hd hc⟩
      | none => exact .inr ⟨rfl, i, rfl, hc, issue_accepted hb hd hc⟩

/-! ### The register window -/

theorem ofOffset_offset (r : Reg) : Reg.ofOffset r.offset = some r := by
  cases r <;> decide

theorem accessOk_offset (r : Reg) : accessOk r.offset .w8 = true := by
  cases r <;> decide

theorem busAccess_read (s : State) (r : Reg) :
    s.busAccess (.read r.offset .w8) = { s with resp := some (.data (s.readReg r)) } := by
  simp [State.busAccess, accessOk_offset, ofOffset_offset]

theorem busAccess_write (s : State) (r : Reg) (v : Word) :
    s.busAccess (.write r.offset .w8 v) = { s.writeReg v r with resp := some .ack } := by
  simp [State.busAccess, accessOk_offset, ofOffset_offset]

/-- Everything a bus access can do to the state besides recording its response: nothing, a CMD write, an OPERAND write. -/
theorem busAccess_cases (s : State) (a : Access) :
    ∃ r, s.busAccess a = { s with resp := some r } ∨
      (∃ v, s.busAccess a = { s.issue v with resp := some r }) ∨
      (∃ v, s.busAccess a = { s with operand := v, resp := some r }) := by
  cases a with
  | read off width =>
    by_cases h : accessOk off width = true
    · exact ⟨_, .inl (if_pos h)⟩
    · exact ⟨.error, .inl (by simp [State.busAccess, h])⟩
  | write off width v =>
    by_cases h : accessOk off width = true
    · refine ⟨.ack, ?_⟩
      simp only [State.busAccess, h, if_true]
      cases hr : Reg.ofOffset off with
      | none => exact .inl rfl
      | some r =>
        cases r with
        | cmd => exact .inr (.inl ⟨v, rfl⟩)
        | operand => exact .inr (.inr ⟨v, rfl⟩)
        | id => exact .inl rfl
        | status => exact .inl rfl
        | result => exact .inl rfl
        | max => exact .inl rfl
        | position => exact .inl rfl
        | bits => exact .inl rfl
        | count => exact .inl rfl
    · exact ⟨.error, .inl (by simp [State.busAccess, h])⟩

end Sys2Proof.Machine
end

