-- ==== Sys2Proof/Laws/Exec.lean ====
section
/-! SUPPORT. `exec` of each command as its latched run, and that run once the command's checks hold. -/

namespace Sys2Proof.Machine

open Sys2Proof

/-- A latched command whose checks hold runs its body on the latched operand. -/
theorem runLatched_eq {i : Instr} {s : State} {p : Pending} {body : Word → Out} {o : Out} (hp : s.pend = some p)
    (hc : check i p.operand s = none) (ho : body p.operand = o) : runLatched i s body = o := by
  rw [runLatched_accepted hp hc, ho]

/-- The checks of a command that needs READY and has no other check to fail. -/
theorem check_ready {i : Instr} {x : Word} {s : State} (hr : s.status.ready = true)
    (hf : fieldOutOfRange i s = false) (ho : operandCheck i x s = none) : check i x s = none := by
  simp [check, hr, hf, ho]

theorem exec_nop (s : State) :
    exec .nop s = runLatched .nop s fun _ => .next (s.commit 0) := rfl

theorem exec_clrerr (s : State) :
    exec .clrerr s = runLatched .clrerr s fun _ => .next (s.clearOvr.commit 0) := rfl

theorem exec_modinv (s : State) :
    exec .modinv s = runLatched .modinv s fun x => .next ((s.setResult (modinv x).1).commit (BitVec.ofNat 64 (modinv x).2)) := rfl

theorem exec_scrWr (k : BitVec 2) (row : BitVec 6) (s : State) :
    exec (.scrWr k row) s = runLatched (.scrWr k row) s fun v => .next ((s.setScratchRow k.toNat row v).commit 0) := rfl

theorem exec_scrRd (k : BitVec 2) (row : BitVec 6) (s : State) :
    exec (.scrRd k row) s = runLatched (.scrRd k row) s fun _ => .next ((s.setResult (rowAt (s.scratch k.toNat) row.toNat)).commit 0) := rfl

theorem exec_matmul (s : State) :
    exec .matmul s = runLatched .matmul s fun x =>
      .next ((s.setScratch 2 (multiply (s.scratch 0) (s.scratch 1) x.toNat)).commit 0) := rfl

theorem exec_genmat (s : State) :
    exec .genmat s = runLatched .genmat s fun x =>
      withDraws x.toNat s fun ds s' =>
        .next (((s'.setScratch 0 (genMatrix x.toNat (drawAt ds))).setScratch 1
          (genInverse x.toNat (drawAt ds))).commit x) := rfl

theorem exec_stageFwd (k : BitVec 2) (s : State) :
    exec (.stageFwd k) s = runLatched (.stageFwd k) s fun x =>
      .next ((s.setResult (stageFwd (s.stage k) s.width (s.maskOperand x))).commit 0) := rfl

theorem exec_stageInv (k : BitVec 2) (s : State) :
    exec (.stageInv k) s = runLatched (.stageInv k) s fun x =>
      .next ((s.setResult (stageInv (s.stage k) s.width (s.maskOperand x))).commit 0) := rfl

theorem exec_matvec (k : BitVec 2) (sel : Select) (s : State) :
    exec (.matvec k sel) s = runLatched (.matvec k sel) s fun x =>
      .next ((s.setResult (matvec ((s.stage k).matrix sel) (s.maskOperand x) s.width)).commit 0) := rfl

theorem exec_readRow (k : BitVec 2) (sel : Select) (row : BitVec 6) (s : State) :
    exec (.readRow k sel row) s = runLatched (.readRow k sel row) s fun _ =>
      .next ((s.setResult (rowAt ((s.stage k).matrix sel) row.toNat)).commit 0) := rfl

theorem exec_readMult (k : BitVec 2) (sel : Select) (s : State) :
    exec (.readMult k sel) s = runLatched (.readMult k sel) s fun _ => .next ((s.setResult ((s.stage k).multiplier sel)).commit 0) := rfl

theorem exec_mixFwd (s : State) :
    exec .mixFwd s = runLatched .mixFwd s fun x =>
      .next ((s.setResult (mixApply (mixRow s.width) s.width (s.maskOperand x))).commit 0) := rfl

theorem exec_mixInv (s : State) :
    exec .mixInv s = runLatched .mixInv s fun x =>
      .next ((s.setResult (mixUnapply (mixRow s.width) s.width (s.maskOperand x))).commit 0) := rfl

theorem exec_readMixc (row : BitVec 6) (s : State) :
    exec (.readMixc row) s = runLatched (.readMixc row) s fun _ =>
      .next ((s.setResult (mixConst (mixRow s.width) row.toNat)).commit 0) := rfl

theorem exec_init (s : State) :
    exec .init s = runLatched .init s fun x =>
      withDraws (drawsOfInit (bitwidth x)) s fun ds s' =>
        .next ((s'.install x ds).commit (BitVec.ofNat 64 (drawsOfInit (bitwidth x)))) := rfl

theorem exec_next (s : State) :
    exec .next s = runLatched .next s fun _ =>
      match s.walkFwd s.position with
      | some (z, c) => Host.Outcome.next ((s.advance.setResult z).commit (BitVec.ofNat 64 c))
      | none => Host.Outcome.next s := by
  rfl

theorem exec_undo (s : State) :
    exec .undo s = runLatched .undo s fun x =>
      match s.walkInv x with
      | some (z, c) => Host.Outcome.next ((s.setResult z).commit (BitVec.ofNat 64 c))
      | none => Host.Outcome.next s := by
  rfl

theorem exec_passFwd (s : State) :
    exec .passFwd s = runLatched .passFwd s fun x => .next ((s.setResult (s.passFwd (s.maskOperand x))).commit 0) := rfl

theorem exec_passInv (s : State) :
    exec .passInv s = runLatched .passInv s fun x => .next ((s.setResult (s.passInv (s.maskOperand x))).commit 0) := rfl

end Sys2Proof.Machine
end

