-- ==== Sys2Proof/Laws/Mix.lean ====
section
/-! SUPPORT. The mix ROM: rows 1..7 are the source's, and every row satisfies MIX_ROM_WF (44_mix.md R242, R243). -/

namespace Sys2Proof.Machine

open Sys2Proof

theorem mixRow_low {w : Nat} (h : w < 8) : mixRow w = MixRow.ones := by
  simp [mixRow, Nat.not_le.mpr h]

theorem mixRow_wf (w : Nat) : (mixRow w).WF := by
  unfold mixRow
  split
  · exact (Config.mixRomOpen _).wf
  · decide

theorem unxsLoop_stop {n fuel t : Nat} {y : Word} (h : n ≤ t) : unxsLoop n fuel t y = y := by
  cases fuel <;> simp [unxsLoop, Nat.not_lt.mpr h]

end Sys2Proof.Machine
end

