-- ==== Sys2Proof/Laws/Modinv.lean ====
section
/-! SUPPORT. The Newton loop's two equations (41_modinv.md R141). -/

namespace Sys2Proof.Machine

open Sys2Proof

theorem modinvLoop_stop {x y : Word} {fuel it : Nat} (h : x * y = 1) : modinvLoop x fuel y it = (y, it) := by
  cases fuel <;> simp [modinvLoop, h]

theorem modinvLoop_update {x y : Word} {fuel it : Nat} (h : x * y ≠ 1) :
    modinvLoop x (fuel + 1) y it = modinvLoop x fuel (y * (2 - x * y)) (it + 1) := by
  rw [modinvLoop, if_neg h]

/-- One update squares the error `1 - x*y` (41_modinv.md R143). -/
theorem modinv_error_square (x y : Word) : 1 - x * (y * (2 - x * y)) = (1 - x * y) * (1 - x * y) := by
  ring

end Sys2Proof.Machine
end

