-- ==== Sys2Proof/Laws/Operands.lean ====
section
/-! SUPPORT. Bits of masks, unit vectors, rows and XOR sums; what masking does to a value. -/

namespace Sys2Proof.Machine

open Sys2Proof

theorem toNat_mask {n : Nat} (h : n ≤ 64) : (mask n).toNat = 2 ^ n - 1 := by
  have : 2 ^ n ≤ 2 ^ 64 := Nat.pow_le_pow_right (by omega) h
  have : 0 < 2 ^ n := Nat.two_pow_pos n
  rw [mask, BitVec.toNat_ofNat, Nat.mod_eq_of_lt (by omega)]

@[simp] theorem bit_mask {n : Nat} (h : n ≤ 64) (j : Nat) : bit (mask n) j = decide (j < n) := by
  rw [bit, BitVec.getLsbD, toNat_mask h, Nat.testBit_two_pow_sub_one]

@[simp] theorem bit_unitVec (i j : Nat) : bit (unitVec i) j = (decide (j < 64) && decide (i = j)) := by
  have h : unitVec i = BitVec.twoPow 64 i := rfl
  rw [bit, h, BitVec.getLsbD_twoPow]
  by_cases hij : i = j <;> simp [hij]

theorem bit_of_ge {v : Word} {j : Nat} (h : 64 ≤ j) : bit v j = false := BitVec.getLsbD_of_ge v j h

theorem toNat_and_mask {n : Nat} (h : n ≤ 64) (v : Word) : (v &&& mask n).toNat = v.toNat % 2 ^ n := by
  rw [BitVec.toNat_and, toNat_mask h, Nat.and_two_pow_sub_one_eq_mod]

/-- A value lies in `[0, 2^n)` exactly when masking leaves it alone. -/
theorem and_mask_eq_iff {n : Nat} (h : n ≤ 64) (v : Word) : v &&& mask n = v ↔ v.toNat < 2 ^ n := by
  rw [← BitVec.toNat_inj, toNat_and_mask h]
  constructor
  · intro e
    rw [← e]
    exact Nat.mod_lt _ (Nat.two_pow_pos n)
  · exact Nat.mod_eq_of_lt

theorem and_mask_lt {n : Nat} (h : n ≤ 64) (v : Word) : (v &&& mask n).toNat < 2 ^ n := by
  rw [toNat_and_mask h]
  exact Nat.mod_lt _ (Nat.two_pow_pos n)

@[simp] theorem and_mask_idem (n : Nat) (v : Word) : v &&& mask n &&& mask n = v &&& mask n := by
  rw [BitVec.and_assoc, BitVec.and_self]

@[simp] theorem rowAt_ofFn (f : Fin 64 → Word) (j : Nat) :
    rowAt (Vector.ofFn f) j = if h : j < 64 then f ⟨j, h⟩ else 0 := by
  unfold rowAt
  split <;> simp

theorem rowAt_eq_getElem (x : BitMatrix) (i : Fin 64) : rowAt x i.val = x[i] := by
  simp [rowAt, i.isLt]

@[simp] theorem xorOver_zero (sel : Word) (term : Nat → Word) : xorOver sel term 0 = 0 := rfl

theorem xorOver_succ (sel : Word) (term : Nat → Word) (n : Nat) :
    xorOver sel term (n + 1) = xorOver sel term n ^^^ (if bit sel n then term n else 0) := rfl

/-- An XOR sum reads only the selecting bits and the terms below its bound. -/
theorem xorOver_congr {sel sel' : Word} {term term' : Nat → Word} {n : Nat}
    (hs : ∀ j < n, bit sel j = bit sel' j) (ht : ∀ j < n, bit sel j = true → term j = term' j) :
    xorOver sel term n = xorOver sel' term' n := by
  induction n with
  | zero => rfl
  | succ n ih =>
    rw [xorOver_succ, xorOver_succ, ih (fun j h => hs j (by omega)) (fun j h => ht j (by omega)),
      ← hs n (by omega)]
    cases hb : bit sel n
    · simp
    · simp [ht n (by omega) hb]

/-- Masking an XOR sum masks its terms. -/
theorem xorOver_and (sel : Word) (term : Nat → Word) (m : Word) (n : Nat) :
    xorOver sel term n &&& m = xorOver sel (fun j => term j &&& m) n := by
  induction n with
  | zero => simp
  | succ n ih =>
    rw [xorOver_succ, xorOver_succ, ← ih]
    cases bit sel n
    · simp
    · simp only [if_true]
      ext i
      simp [Bool.and_xor_distrib_right]

/-- Bit `i` of an XOR sum is the XOR of the terms' bits `i`. -/
theorem bit_xorOver_succ (sel : Word) (term : Nat → Word) (n i : Nat) :
    bit (xorOver sel term (n + 1)) i = (bit (xorOver sel term n) i ^^ (bit sel n && bit (term n) i)) := by
  rw [xorOver_succ]
  cases hb : bit sel n <;> simp

/-- `matvec` is a product with a single-row left operand (43_stage_bank.md R204). -/
theorem matvec_eq_xorOver (x : BitMatrix) (z : Word) (n : Nat) :
    matvec x z n = xorOver z (fun j => rowAt x j &&& mask n) n := by
  rw [matvec, xorOver_and]

end Sys2Proof.Machine
end

