-- ==== Sys2Proof/Laws/PerInstr.lean ====
section
/-! SUPPORT. Statements about every command as syntax, one lemma per constructor. -/

namespace Sys2Proof.Laws

open Sys2Proof

/-- The opcode of a command (30_encoding.md R104). -/
def opcodeOf : Instr → BitVec 8
  | .nop => 0x00
  | .clrerr => 0x01
  | .init => 0x10
  | .next => 0x11
  | .undo => 0x12
  | .modinv => 0x20
  | .mixFwd => 0x30
  | .mixInv => 0x31
  | .stageFwd _ => 0x32
  | .stageInv _ => 0x33
  | .matvec _ _ => 0x34
  | .passFwd => 0x35
  | .passInv => 0x36
  | .readRow _ _ _ => 0x40
  | .readMult _ _ => 0x41
  | .readMixc _ => 0x42
  | .scrWr _ _ => 0x50
  | .scrRd _ _ => 0x51
  | .matmul => 0x52
  | .genmat => 0x53

/-- The encoded word of the command carries its opcode in bits [7:0]. -/
def OpcodeByte.Statement (i : Instr) : Prop := opField (encode i) = opcodeOf i

namespace OpcodeByte

theorem nop : Statement .nop := opField_commandWord _ _ _ _
theorem clrerr : Statement .clrerr := opField_commandWord _ _ _ _
theorem init : Statement .init := opField_commandWord _ _ _ _
theorem next : Statement .next := opField_commandWord _ _ _ _
theorem undo : Statement .undo := opField_commandWord _ _ _ _
theorem modinv : Statement .modinv := opField_commandWord _ _ _ _
theorem mixFwd : Statement .mixFwd := opField_commandWord _ _ _ _
theorem mixInv : Statement .mixInv := opField_commandWord _ _ _ _
theorem stageFwd (k : BitVec 2) : Statement (.stageFwd k) := opField_commandWord _ _ _ _
theorem stageInv (k : BitVec 2) : Statement (.stageInv k) := opField_commandWord _ _ _ _
theorem matvec (k : BitVec 2) (sel : Select) : Statement (.matvec k sel) := opField_commandWord _ _ _ _
theorem passFwd : Statement .passFwd := opField_commandWord _ _ _ _
theorem passInv : Statement .passInv := opField_commandWord _ _ _ _
theorem readRow (k : BitVec 2) (sel : Select) (row : BitVec 6) : Statement (.readRow k sel row) :=
  opField_commandWord _ _ _ _
theorem readMult (k : BitVec 2) (sel : Select) : Statement (.readMult k sel) := opField_commandWord _ _ _ _
theorem readMixc (row : BitVec 6) : Statement (.readMixc row) := opField_commandWord _ _ _ _
theorem scrWr (k : BitVec 2) (row : BitVec 6) : Statement (.scrWr k row) := opField_commandWord _ _ _ _
theorem scrRd (k : BitVec 2) (row : BitVec 6) : Statement (.scrRd k row) := opField_commandWord _ _ _ _
theorem matmul : Statement .matmul := opField_commandWord _ _ _ _
theorem genmat : Statement .genmat := opField_commandWord _ _ _ _

end OpcodeByte

end Sys2Proof.Laws
end

