-- ==== Sys2Proof/Laws/Permutation.lean ====
section
/-! SUPPORT. The rejection loop: what its answer is (45_permutation.md R278, R281). -/

namespace Sys2Proof.Machine

open Sys2Proof

/-- An answer of the loop is the first value in range after the values already passed, and its count. -/
theorem rejectionLoop_some {f : Word → Word} {max z v : Word} {fuel c k : Nat}
    (h : rejectionLoop f max fuel z c = some (v, k)) :
    c < k ∧ k ≤ c + fuel ∧ FirstInRange f max z v (k - c) := by
  induction fuel generalizing z c with
  | zero => simp [rejectionLoop] at h
  | succ fuel ih =>
    simp only [rejectionLoop] at h
    split at h
    · rename_i hle
      cases h
      refine ⟨by omega, by omega, by omega, ?_, hle, fun j h1 h2 => by omega⟩
      have : c + 1 - c = 1 := by omega
      simp [this]
    · rename_i hnle
      obtain ⟨h1, h2, h3, h4, h5, h6⟩ := ih h
      have hk : k - c = (k - (c + 1)) + 1 := by omega
      refine ⟨by omega, by omega, by omega, ?_, h5, fun j hj hjk => ?_⟩
      · rw [hk, Function.iterate_succ_apply]
        exact h4
      · obtain ⟨j, rfl⟩ : ∃ i, j = i + 1 := ⟨j - 1, by omega⟩
        rw [Function.iterate_succ_apply]
        by_cases hz : j = 0
        · subst hz
          exact hnle
        · exact h6 j (by omega) (by omega)

/-- Where the loop has fuel for the first value in range, it answers with it. -/
theorem rejectionLoop_of_first {f : Word → Word} {max z v : Word} {fuel c k : Nat}
    (h : FirstInRange f max z v k) (hf : k ≤ fuel) : rejectionLoop f max fuel z c = some (v, c + k) := by
  induction fuel generalizing z c k with
  | zero =>
    have := h.1
    omega
  | succ fuel ih =>
    obtain ⟨h1, h2, h3, h4⟩ := h
    simp only [rejectionLoop]
    split
    · rename_i hle
      by_cases hk : k = 1
      · subst hk
        simp at h2
        rw [h2]
      · exact absurd hle (by simpa using h4 1 (by omega) (by omega))
    · rename_i hnle
      obtain ⟨k, rfl⟩ : ∃ i, k = i + 1 := ⟨k - 1, by omega⟩
      rw [Function.iterate_succ_apply] at h2
      have hk : 1 ≤ k := by
        rcases Nat.eq_zero_or_pos k with rfl | hk
        · simp only [Function.iterate_zero, id_eq] at h2
          exact absurd (h2 ▸ h3) hnle
        · exact hk
      have := ih (z := f z) (c := c + 1) (k := k)
        ⟨hk, h2, h3, fun j hj hjk => by
          have := h4 (j + 1) (by omega) (by omega)
          rwa [Function.iterate_succ_apply] at this⟩ (by omega)
      rw [this]
      congr 2
      omega

end Sys2Proof.Machine
end

