-- ==== Sys2Proof/Laws/Step.lean ====
section
/-! SUPPORT. The step by its first event, and the block agent's step by its latch. -/

namespace Sys2Proof.Machine

open Sys2Proof

theorem step_nil {s : State} (h : s.inputs = []) : step s = blockStep s := by
  simp [step, h]

theorem step_block {s : State} {rest : List Input} (h : s.inputs = .block :: rest) :
    step s = blockStep { s with inputs := rest } := by
  simp [step, h]

theorem step_access {s : State} {a : Access} {rest : List Input} (h : s.inputs = .access a :: rest) :
    step s = .next (State.busAccess { s with inputs := rest } a) := by
  simp [step, h]

theorem step_wait {s : State} {rest : List Input} (h : s.inputs = .wait :: rest) :
    step s = .next (State.pollRound { s with inputs := rest }) := by
  simp [step, h]

theorem step_offer {s : State} {w : Word} {rest : List Input} (h : s.inputs = .offer w :: rest) :
    step s = .next (State.offer { s with inputs := rest } w) := by
  simp [step, h]

theorem step_rst {s : State} {rest : List Input} (h : s.inputs = .rst :: rest) :
    step s = .next (State.applyReset { s with inputs := rest }) := by
  simp [step, h]

theorem blockStep_idle {s : State} (h : s.pend = none) : blockStep s = .next s := by
  simp [blockStep, State.fetch, h]

theorem blockStep_exec {s : State} {p : Pending} {i : Instr} (h : s.pend = some p)
    (hd : decodeWord p.word = .instr i) : blockStep s = exec i s := by
  simp [blockStep, State.fetch, h, hd]

theorem blockStep_undecoded {s : State} {p : Pending} {e : DecodeError} (h : s.pend = some p)
    (hd : decodeWord p.word = .rejected e) : blockStep s = .next (s.abort (decodeErrCode e)) := by
  simp [blockStep, State.fetch, h, hd]

/-- Every step is the block agent's step, with the event spent that gave it the turn, or one event of the environment. -/
theorem step_cases (s : State) :
    (s.inputs = [] ∧ step s = blockStep s) ∨
    (∃ rest, s.inputs = .block :: rest ∧ step s = blockStep { s with inputs := rest }) ∨
    (∃ a rest, s.inputs = .access a :: rest ∧ step s = .next (State.busAccess { s with inputs := rest } a)) ∨
    (∃ rest, s.inputs = .wait :: rest ∧ step s = .next (State.pollRound { s with inputs := rest })) ∨
    (∃ w rest, s.inputs = .offer w :: rest ∧ step s = .next (State.offer { s with inputs := rest } w)) ∨
    (∃ rest, s.inputs = .rst :: rest ∧ step s = .next (State.applyReset { s with inputs := rest })) := by
  rcases h : s.inputs with _ | ⟨e, rest⟩
  · exact .inl ⟨rfl, step_nil h⟩
  · cases e with
    | block => exact .inr (.inl ⟨rest, rfl, step_block h⟩)
    | access a => exact .inr (.inr (.inl ⟨a, rest, rfl, step_access h⟩))
    | wait => exact .inr (.inr (.inr (.inl ⟨rest, rfl, step_wait h⟩)))
    | offer w => exact .inr (.inr (.inr (.inr (.inl ⟨w, rest, rfl, step_offer h⟩))))
    | rst => exact .inr (.inr (.inr (.inr (.inr ⟨rest, rfl, step_rst h⟩))))

/-- One polling round reads STATUS, and while BUSY puts the block agent's turn and the next poll in front. -/
theorem pollRound_eq (s : State) :
    s.pollRound =
      { s with
        resp := some (.data s.status.toWord)
        inputs := if s.status.busy then .block :: .wait :: s.inputs else s.inputs } := by
  unfold State.pollRound pollAccess
  rw [busAccess_read]
  cases h : s.status.busy <;> simp [State.readReg]

end Sys2Proof.Machine
end

