-- ==== Sys2Proof/Tests/Slice0.lean ====
section
/-! SUPPORT. Smoke tests of WellFormed, decoding of words written out from 30_encoding.md R104/R105, single steps on the
values of 95_test_vectors.md, and for every statement with hypotheses a state that meets them. -/

namespace Sys2Proof.Tests

open Sys2Proof Sys2Proof.Machine Sys2Proof.Claims

set_option Elab.async false

/-! ### WellFormed refuses -/

theorem smoke_scrWr_bank : (Instr.scrWr 3 0).wellFormed = false ∧ (Instr.scrWr 2 63).wellFormed = true := by decide

theorem smoke_scrRd_bank : (Instr.scrRd 3 0).wellFormed = false ∧ (Instr.scrRd 2 63).wellFormed = true := by decide

theorem smoke_readMixc_index :
    (Instr.readMixc 7).wellFormed = false ∧ (Instr.readMixc 63).wellFormed = false ∧
    (Instr.readMixc 6).wellFormed = true := by decide

/-! ### Decoding of words written out bit by bit: `{ROW[21:16], 0[15:11], S[10], K[9:8], OP[7:0]}` (R100, R104) -/

theorem test_decode_control :
    decodeWord 0b0000000000000000 = .instr .nop ∧ decodeWord 0b0000000000000001 = .instr .clrerr := by decide

theorem test_decode_engine :
    decodeWord 0b0000000000010000 = .instr .init ∧ decodeWord 0b0000000000010001 = .instr .next ∧
    decodeWord 0b0000000000010010 = .instr .undo := by decide

theorem test_decode_modinv : decodeWord 0b0000000000100000 = .instr .modinv := by decide

theorem test_decode_mix :
    decodeWord 0b0000000000110000 = .instr .mixFwd ∧ decodeWord 0b0000000000110001 = .instr .mixInv ∧
    decodeWord 0b0000110000000001000010 = .instr (.readMixc 3) := by decide

theorem test_decode_stage :
    decodeWord 0b0000001000110010 = .instr (.stageFwd 2) ∧ decodeWord 0b0000001100110011 = .instr (.stageInv 3) ∧
    decodeWord 0b0000010100110100 = .instr (.matvec 1 .inv) ∧ decodeWord 0b0000001000110100 = .instr (.matvec 2 .fwd) := by
  decide

theorem test_decode_pass :
    decodeWord 0b0000000000110101 = .instr .passFwd ∧ decodeWord 0b0000000000110110 = .instr .passInv := by decide

theorem test_decode_readback :
    decodeWord 0b0001010000011001000000 = .instr (.readRow 2 .inv 5) ∧
    decodeWord 0b1111110000001101000000 = .instr (.readRow 3 .fwd 63) ∧
    decodeWord 0b0000010001000001 = .instr (.readMult 0 .inv) := by decide

theorem test_decode_scratch :
    decodeWord 0b1111110000000101010000 = .instr (.scrWr 1 63) ∧
    decodeWord 0b0000010000001001010001 = .instr (.scrRd 2 1) ∧
    decodeWord 0b0000000001010010 = .instr .matmul ∧ decodeWord 0b0000000001010011 = .instr .genmat := by decide

/-- 95_test_vectors.md §3.6, "Priority" and "Rejections". -/
theorem test_decode_rejections :
    decodeWord 0xFF = .rejected .illegal ∧ decodeWord 0x802 = .rejected .illegal ∧
    decodeWord 0x8000000000000010 = .rejected .reserved ∧ decodeWord 0x142 = .rejected .reserved ∧
    decodeWord 0x711 = .rejected .reserved ∧ decodeWord 0x400350 = .rejected .reserved := by decide

/-- The words of 95_test_vectors.md §3.6. -/
theorem test_encode_words :
    encode (.readRow 3 .inv 1) = 0x10740 ∧ encode (.matvec 1 .inv) = 0x534 ∧ encode (.scrWr 1 63) = 0x3F0150 ∧
    encode (.readMixc 3) = 0x30042 ∧ encode (.stageInv 3) = 0x333 ∧ encode .genmat = 0x53 := by decide

theorem test_decodeTableWord :
    decodeTableWord 64 0x10740 = some (.readRow 3 .inv 1) ∧ decodeTableWord 64 0x02 = none := by decide

/-! ### Single steps (95_test_vectors.md) -/

/-- The state after the idle block with OPERAND = `x` is given the word `v` and the block agent has taken one step. -/
def ran (s : State) (x v : Word) : State :=
  match blockStep (State.issue { s with operand := x } v) with
  | .next t => t
  | _ => s

/-- The `max = 5` fixture of §2.4. -/
def fixture5 : State :=
  { State.reset with
    status := ⟨false, true, false, .ok⟩
    max := 5
    bits := 3
    bank := buildBank 3 (f1Draws 16) }

/-- A state with STATUS, COUNT and RESULT given. -/
def withStatus (st : Status) : State := { State.reset with status := st, count := 9, result := 7 }

theorem test_nop_keeps_ovr :
    (ran (withStatus ⟨false, true, true, .ok⟩) 0 0x00).status.toWord = 0x0006 ∧
    (ran (withStatus ⟨false, false, false, .illegal⟩) 0 0x00).status.toWord = 0x0000 ∧
    (ran (withStatus ⟨false, false, false, .illegal⟩) 0 0x00).count = 0 := by decide +kernel

theorem test_clrerr :
    (ran (withStatus ⟨false, true, true, .ok⟩) 0 0x01).status.toWord = 0x0002 ∧
    (ran (withStatus ⟨false, true, false, .range⟩) 0 0x01).status.toWord = 0x0002 ∧
    ((withStatus ⟨true, true, false, .ok⟩).issue 0x01).status.toWord = 0x0007 := by decide +kernel

theorem test_modinv :
    (ran State.reset 7 0x20).result = 0x6DB6DB6DB6DB6DB7 ∧ (ran State.reset 7 0x20).count = 4 ∧
    (ran State.reset 0x9E3779B97F4A7C15 0x20).result = 0xF1DE83E19937733D := by decide +kernel

theorem test_modinv_even :
    (State.issue { State.reset with operand := 6 } 0x20).status.toWord = 0x0400 := by decide +kernel

/-- P1, lines 3 and 4: INIT under F1 with 13 words on offer takes 12 and leaves the last. -/
theorem test_init3 :
    let t := ran { State.reset with entropy := f1Draws 13 } 3 0x10
    t.status.toWord = 0x0002 ∧ t.count = 12 ∧ t.max = 3 ∧ t.bits = 2 ∧ t.position = 0 ∧ t.entropy.length = 1 := by
  decide +kernel

theorem test_init_starved :
    let t := ran { State.reset with entropy := f1Draws 5 } 3 0x10
    t.status.toWord = 0x0001 ∧ t.taken.length = 5 ∧ t.entropy = [] ∧ t.max = 0 ∧ t.entReady = true := by
  decide +kernel

theorem test_next_rejection :
    let t := ran { fixture5 with position := 4 } 0 0x11
    t.result = 3 ∧ t.count = 2 ∧ t.position = 5 := by decide +kernel

theorem test_next_wraps :
    let t := ran { fixture5 with position := 5 } 0 0x11
    t.result = 5 ∧ t.count = 2 ∧ t.position = 0 := by decide +kernel

theorem test_undo :
    (ran fixture5 3 0x12).result = 4 ∧ (ran fixture5 3 0x12).count = 2 ∧ (ran fixture5 3 0x12).position = 0 := by
  decide +kernel

theorem test_undo_range : (State.issue { fixture5 with operand := 6 } 0x12).status.toWord = 0x0502 := by decide +kernel

theorem test_passes :
    ([0, 1, 2, 3, 4, 5, 6, 7].map fun z => (ran fixture5 z 0x35).result) = [2, 0, 4, 1, 7, 6, 5, 3] ∧
    ([0, 1, 2, 3, 4, 5, 6, 7].map fun z => (ran fixture5 z 0x36).result) = [1, 3, 0, 7, 2, 6, 5, 4] := by
  decide +kernel

theorem test_mix :
    ([0, 1, 2, 3, 4, 5, 6, 7].map fun z => (ran fixture5 z 0x30).result) = [0, 1, 3, 2, 7, 6, 4, 5] ∧
    ([0, 1, 3, 2, 7, 6, 4, 5].map fun z => (ran fixture5 z 0x31).result) = [0, 1, 2, 3, 4, 5, 6, 7] := by
  decide +kernel

/-- Row H of 95_test_vectors.md §3.4 at width 64. -/
def rowH : MixRow := ⟨31, 27, 33, 0xBF58476D1CE4E5B9, 0x94D049BB133111EB, 0x96DE1B173F119089, 0x319642B2D24D8EC3⟩

theorem test_mix_wide :
    mixApply rowH 64 0x0123456789ABCDEF = 0xEE7FDCEBC53230D7 ∧
    mixUnapply rowH 64 0xEE7FDCEBC53230D7 = 0x0123456789ABCDEF := by decide +kernel

theorem test_readMixc :
    ([0, 1, 2, 3, 4, 5, 6].map fun i : Nat => (ran fixture3 0 (BitVec.ofNat 64 (0x42 + i * 65536))).result) =
      [1, 1, 1, 1, 1, 1, 1] ∧
    (fixture3.issue 0x70042).status.toWord = 0x0602 := by decide +kernel

/-- The order of the seven constants (44_mix.md R252). -/
theorem test_mixConst_order :
    ((List.range 7).map (mixConst rowH)) =
      [31, 27, 33, 0xBF58476D1CE4E5B9, 0x94D049BB133111EB, 0x96DE1B173F119089, 0x319642B2D24D8EC3] := by
  decide +kernel

theorem test_stageFwd :
    ([0, 1, 2, 3, 4, 5, 6, 7].map fun z => (ran fixture5 z 0x132).result) = [2, 5, 4, 0, 1, 6, 7, 3] ∧
    (ran fixture3 5 0x32).result = 2 := by decide +kernel

theorem test_stageInv :
    ([0, 1, 2, 3, 4, 5, 6, 7].map fun z => (ran fixture5 z 0x133).result) = [3, 4, 0, 7, 2, 1, 5, 6] := by
  decide +kernel

theorem test_matvec :
    ([0, 1, 2, 3, 4, 5, 6, 7].map fun z => (ran fixture5 z 0x34).result) = [0, 5, 2, 7, 3, 6, 1, 4] ∧
    ([0, 1, 2, 3, 4, 5, 6, 7].map fun z => (ran fixture5 z 0x434).result) = [0, 6, 2, 4, 7, 1, 5, 3] := by
  decide +kernel

theorem test_readRow :
    (ran fixture3 0 0x10340).result = 1 ∧ (ran fixture3 0 0x740).result = 2 ∧
    (fixture3.issue 0x20040).status.toWord = 0x0602 := by decide +kernel

theorem test_readMult :
    (ran fixture3 0 0x141).result = 0xB54CDA58FBBEE87F ∧ (ran fixture3 0 0x541).result = 0xF004E65D74F8D77F := by
  decide +kernel

theorem test_scrWr :
    (ran State.reset 0xFFFFFFFFFFFFFFFF 0x3F0150).scr[1][63] = 0xFFFFFFFFFFFFFFFF ∧
    (ran State.reset 0xFFFFFFFFFFFFFFFF 0x3F0150).scr[0][63] = 0 := by decide +kernel

theorem test_scrRd :
    (ran { State.reset with scr := State.reset.scr.set 2 (BitMatrix.zero.set 1 5), result := 9 } 0 0x10251).result = 5 ∧
    (State.reset.issue 0x350).status.toWord = 0x0600 := by decide +kernel

theorem test_genmat :
    let t := ran { State.reset with entropy := f1Draws 4 } 4 0x53
    t.scr[0].toList.take 5 = [0b0101, 0b1010, 0b0011, 0b0100, 0] ∧
    t.scr[1].toList.take 5 = [0b1001, 0b1101, 0b1000, 0b1111, 0] ∧ t.count = 4 := by decide +kernel

theorem test_matmul_inverse :
    let t := { State.reset with
      scr := #v[BitMatrix.zero.set 0 0b101 |>.set 1 0b010 |>.set 2 0b011,
        BitMatrix.zero.set 0 0b110 |>.set 1 0b010 |>.set 2 0b111, BitMatrix.zero.set 5 77] };
    (ran t 3 0x52).scr[2].toList.take 6 = [0b001, 0b010, 0b100, 0, 0, 0] := by decide +kernel

theorem test_bus_errors :
    State.reset.busAccess (.read 0x10 .w4) = { State.reset with resp := some .error } ∧
    State.reset.busAccess (.write 0x0C .w8 5) = { State.reset with resp := some .error } ∧
    State.reset.busAccess (.write 0x20 .w8 5) = { State.reset with resp := some .ack } := by decide +kernel

/-- The address of a register in the host's address space is BASE plus its offset, whatever BASE is. -/
theorem test_window :
    readAt (Config.base + 0x20) .w8 = some (.read 0x20 .w8) ∧ readAt (Config.base + 256) .w8 = none := by
  simp [readAt, windowOffset]

theorem test_withFetchWord :
    step (State.reset.withFetchWord 64 0x00) = .next State.reset ∧
    GoesOn (step (State.reset.withFetchWord 64 0x20)) := by
  constructor
  · rfl
  · exact ⟨_, rfl⟩

/-! ### States that meet the hypotheses of the statements -/

/-- `s` with the command latched that `i` is and the operand `x`. -/
def latched (s : State) (i : Instr) (x : Word) : State :=
  { s with pend := some ⟨encode i, x⟩, status := { s.status with busy := true } }

/-- A stage of width `n` whose matrices are the identity and whose multiplier is 1. -/
def plainStage (n : Nat) : Stage := ⟨identity n, identity n, 1, 1⟩

/-- A GeneratorState of the least width. -/
def fixtureMin : State :=
  { State.reset with status := ⟨false, true, false, .ok⟩, bits := 1, bank := Vector.replicate 4 (plainStage 1) }

/-- A GeneratorState of the greatest width. -/
def fixtureMax : State :=
  { State.reset with
    status := ⟨false, true, false, .ok⟩
    max := 0xFFFFFFFFFFFFFFFF
    position := 0xFFFFFFFFFFFFFFFF
    bits := 64
    bank := Vector.replicate 4 (plainStage 64) }

theorem plainStage_inv_one : (plainStage 1).Inv 1 :=
  ⟨by decide +kernel, by decide +kernel, by decide +kernel, by decide +kernel, by decide, by decide⟩

theorem plainStage_inv_max : (plainStage 64).Inv 64 :=
  ⟨by decide +kernel, by decide +kernel, by decide +kernel, by decide +kernel, by decide, by decide⟩

theorem fixture3_stage (k : Fin 4) : fixture3.bank[k].Inv 2 := by
  refine ⟨?_, ?_, ?_, ?_, ?_, ?_⟩ <;> revert k <;> decide +kernel

theorem witness_generatorInv : fixture3.GeneratorInv :=
  ⟨by decide, by decide, by decide +kernel, by decide, fixture3_stage⟩

theorem fixtureMin_stage (k : Fin 4) : fixtureMin.bank[k] = plainStage 1 := by revert k; decide +kernel

theorem fixtureMax_stage (k : Fin 4) : fixtureMax.bank[k] = plainStage 64 := by revert k; decide +kernel

theorem witness_generatorInv_min : fixtureMin.GeneratorInv ∧ fixtureMin.width = 1 ∧ fixtureMin.max = 0 :=
  ⟨⟨by decide, by decide, by decide +kernel, by decide, fun k => fixtureMin_stage k ▸ plainStage_inv_one⟩,
    by decide, by decide⟩

theorem witness_generatorInv_max :
    fixtureMax.GeneratorInv ∧ fixtureMax.width = 64 ∧ fixtureMax.max = mask fixtureMax.width :=
  ⟨⟨by decide, by decide, by decide +kernel, by decide, fun k => fixtureMax_stage k ▸ plainStage_inv_max⟩,
    by decide, by decide +kernel⟩

/-- NEXT latched in the `max = 3` fixture: a state that meets the invariant with BUSY = 1. -/
theorem witness_inv_busy : (latched fixture3 .next 0).Inv :=
  ⟨⟨by decide, fun p hp => ⟨.next, by cases hp; decide, by cases hp; decide +kernel, .inl rfl⟩, by decide⟩,
    fun _ => ⟨by decide, by decide, by decide +kernel, by decide, fixture3_stage⟩, fun h => absurd h (by decide)⟩

/-- INIT latched before any INIT, with draws taken and more needed. -/
def startingInit : State := { latched State.reset .init 3 with taken := [5, 6], entropy := f1Draws 10 }

theorem witness_inv_waiting : startingInit.Inv :=
  ⟨⟨by decide, fun p hp => ⟨.init, by cases hp; decide, by cases hp; decide +kernel, by cases hp; decide +kernel⟩,
      by decide⟩,
    fun h => absurd h (by decide), fun _ => ⟨by decide, by decide, by decide⟩⟩

/-- GENMAT latched: the last draw it needs is the only one on offer. -/
def startingGenmat : State := { latched State.reset .genmat 2 with taken := [5], entropy := [6] }

theorem witness_inv_genmat : startingGenmat.Inv :=
  ⟨⟨by decide, fun p hp => ⟨.genmat, by cases hp; decide, by cases hp; decide +kernel, by cases hp; decide +kernel⟩,
      by decide⟩,
    fun h => absurd h (by decide), fun _ => ⟨by decide, by decide, by decide⟩⟩

theorem witness_reset_idle : State.reset.status.busy = false ∧ State.reset.pend = none ∧ State.reset.inputs = [] := by
  decide

/-- The words of CommandWords: each command's word with its fields all ones matches, and with bit 11 set it does not. -/
theorem witness_command_words :
    (∀ r ∈ opcodeTable, (r.matchWord ||| r.used) &&& r.mask = r.matchWord ∧
      (r.matchWord ||| 0x800) &&& 0xFF = r.matchWord ∧ (r.matchWord ||| 0x800) &&& r.mask ≠ r.matchWord) := by
  decide +kernel

theorem witness_IllegalAndReservedWordsAreRejected :
    State.reset.status.busy = false ∧ (0x02 : BitVec 8) ∉ legalOpcodes ∧
    ((0x0111 : Word).extractLsb' 0 8 ∈ legalOpcodes ∧ (0x0111 : Word) &&& ~~~(0xFF ||| usedFieldsOf 0x11) ≠ 0) ∧
    (0x0811 : Word).extractLsb' 11 5 ≠ 0 ∧ (0x8011 : Word).extractLsb' 11 5 ≠ 0 ∧
    (0x400011 : Word).extractLsb' 22 42 ≠ 0 ∧ (0x8000000000000011 : Word).extractLsb' 22 42 ≠ 0 ∧
    decodeWord 0x50 = .instr (.scrWr 0 0) := by decide +kernel

theorem witness_OpcodeRows :
    ∃ r ∈ opcodeTable, ∃ q ∈ opcodeTable, (0x3F0350 : Word) &&& r.mask = r.matchWord ∧
      (0x3F0350 : Word) &&& q.mask = q.matchWord := by decide +kernel

theorem witness_RegisterWindowAccesses :
    ((0x48 : BitVec 8) ≤ 0x48 ∧ (0x48 : BitVec 8).extractLsb' 0 3 = 0) ∧
    ((0x48 : BitVec 8) ≤ 0xF8 ∧ (0xF8 : BitVec 8).extractLsb' 0 3 = 0) ∧
    (0x01 : BitVec 8).extractLsb' 0 3 ≠ 0 ∧ (0xFF : BitVec 8).extractLsb' 0 3 ≠ 0 ∧ Width.w4 ≠ .w8 := by decide

/-- An OP that is not legal, on the idle block. -/
theorem witness_CodesEachCommandCanRaise :
    State.reset.status.busy = false ∧ (0x02 : Word).extractLsb' 0 8 ∉ legalOpcodes ∧
    (0xFF : Word).extractLsb' 0 8 ∉ legalOpcodes := by decide

/-- OVR falls in a step that commits CLRERR, and in a reset. -/
theorem witness_CommandWhileBusyIsDropped :
    (latched fixture3 .next 0).status.busy = true ∧
    (∃ t, step (latched (withStatus ⟨false, true, true, .ok⟩) .clrerr 0) = .next t ∧ t.status.ovr = false) ∧
    ∃ t, step { withStatus ⟨true, true, true, .ok⟩ with inputs := [.rst] } = .next t ∧ t.status.ovr = false :=
  ⟨by decide, ⟨_, rfl, rfl⟩, ⟨_, rfl, rfl⟩⟩

theorem witness_NopCommand :
    (latched State.reset .nop 0).pend = some ⟨0, 0⟩ ∧
    (withStatus ⟨false, true, false, .illegal⟩).status.busy = false ∧
    (withStatus ⟨false, true, false, .illegal⟩).status.err = .illegal := by decide

theorem witness_ClrerrCommand :
    (latched State.reset .clrerr 0).pend = some ⟨1, 0⟩ ∧ (latched State.reset .clrerr 0).status.busy = true ∧
    (withStatus ⟨false, true, true, .ok⟩).status.toWord = 0x0006 := by decide

theorem witness_ModinvCommand :
    (latched State.reset .modinv 1).pend = some ⟨0x20, 1⟩ ∧ (1 : Word).getLsbD 0 = true ∧
    (0xFFFFFFFFFFFFFFFF : Word).getLsbD 0 = true := by decide

theorem witness_ScrWrCommand :
    (latched State.reset (.scrWr 2 63) 7).pend = some ⟨0x3F0250, 7⟩ ∧ (2 : BitVec 2) ≠ 3 ∧ (0 : BitVec 2) ≠ 3 := by
  decide

theorem witness_ScrRdCommand :
    (latched State.reset (.scrRd 2 63) 7).pend = some ⟨0x3F0251, 7⟩ ∧
    (latched State.reset (.scrWr 0 0) 3).pend = some ⟨0x50, 3⟩ ∧
    GoesOn (exec (.scrWr 0 0) (latched State.reset (.scrWr 0 0) 3)) :=
  ⟨by decide, by decide, ⟨_, rfl⟩⟩

/-- The example's matrices in the scratch banks, and the least and the greatest operand. -/
theorem witness_MatmulCommand :
    (let s := { latched State.reset .matmul 3 with
        scr := #v[BitMatrix.zero.set 0 0b011 |>.set 1 0b110 |>.set 2 0b101,
          BitMatrix.zero.set 0 0b001 |>.set 1 0b011 |>.set 2 0b111, BitMatrix.zero] };
      s.pend = some ⟨0x52, 3⟩ ∧ s.scr[0][0] = 0b011 ∧ s.scr[0][1] = 0b110 ∧ s.scr[0][2] = 0b101 ∧
      s.scr[1][0] = 0b001 ∧ s.scr[1][1] = 0b011 ∧ s.scr[1][2] = 0b111) ∧
    ((1 : Word) ≤ 1 ∧ (1 : Word) ≤ 64) ∧ ((1 : Word) ≤ 64 ∧ (64 : Word) ≤ 64) ∧
    (∀ i < 1, rowAt (identity 1) i &&& mask 1 = rowAt (BitMatrix.zero.set 0 3) i &&& mask 1) := by decide +kernel

/-- Just enough draws, and one too few. -/
theorem witness_GenmatCommand :
    startingGenmat.pend = some ⟨0x53, 2⟩ ∧ (1 : Word) ≤ 2 ∧ (2 : Word) ≤ 64 ∧
    (2 : Word).toNat ≤ startingGenmat.taken.length + startingGenmat.entropy.length ∧
    (let s := { startingGenmat with entropy := [] }; s.taken.length + s.entropy.length < (2 : Word).toNat) ∧
    (let s := { latched State.reset .genmat 64 with entropy := f1Draws 64 };
      (64 : Word) ≤ 64 ∧ (64 : Word).toNat ≤ s.taken.length + s.entropy.length) := by decide +kernel

/-- The hypotheses of the statements on the stage commands, the mixes and the passes. -/
theorem witness_ready_commands :
    ∀ i ∈ ([.stageFwd 3, .stageInv 3, .matvec 3 .inv, .readRow 3 .inv 1, .readMult 3 .inv, .mixFwd, .mixInv,
        .readMixc 6, .passFwd, .passInv, .next, .undo] : List Instr),
      (latched fixture3 i 3).pend = some ⟨encode i, 3⟩ ∧ (latched fixture3 i 3).status.ready = true ∧
      (1 : BitVec 6).toNat < fixture3.bits.toNat ∧ (6 : BitVec 6).toNat ≤ 6 ∧ fixture3.width < 8 ∧
      (3 : Word) ≤ fixture3.max := by decide +kernel

/-- The state after STAGE_FWD, from which STAGE_INV is run. -/
theorem witness_StageInvCommand :
    (plainStage 1).Inv 1 ∧ (latched fixture3 (.stageFwd 3) 3).GeneratorInv ∧
    GoesOn (exec (.stageFwd 3) (latched fixture3 (.stageFwd 3) 3)) :=
  ⟨plainStage_inv_one, ⟨by decide, by decide, by decide +kernel, by decide, fixture3_stage⟩, ⟨_, rfl⟩⟩

/-- A stage that meets its invariant at the least, at a middle and at the greatest width, with values in range. -/
theorem witness_stages :
    (plainStage 1).Inv 1 ∧ (∀ k : Fin 4, fixture3.bank[k].Inv 2) ∧ (plainStage 64).Inv 64 ∧
    (1 : Word).toNat < 2 ^ 1 ∧ (3 : Word).toNat < 2 ^ 2 ∧ (0xFFFFFFFFFFFFFFFF : Word).toNat < 2 ^ 64 :=
  ⟨plainStage_inv_one, fixture3_stage, plainStage_inv_max, by decide, by decide, by decide⟩

/-- Exactly the draws that INIT needs, and one too few. -/
theorem witness_InitCommand :
    (latched State.reset .init 3).pend = some ⟨0x10, 3⟩ ∧
    4 * (bitwidth 3 + 1) ≤ startingInit.taken.length + startingInit.entropy.length ∧
    (let s := { startingInit with taken := [5] }; s.taken.length + s.entropy.length < 4 * (bitwidth 3 + 1)) := by
  decide +kernel

theorem witness_NextCommand :
    (latched fixture3 .next 0).pend = some ⟨0x11, 0⟩ ∧ (latched fixture3 .next 0).status.ready = true ∧
    (latched fixture3 .next 0).GeneratorInv :=
  ⟨by decide, by decide, witness_inv_busy.generator (by decide)⟩

/-- NEXT and UNDO at the least and the greatest MAX. -/
theorem witness_walk_limits :
    ((latched fixtureMin .next 0).GeneratorInv ∧ (latched fixtureMin .undo 0).pend = some ⟨0x12, 0⟩ ∧
      (0 : Word) ≤ fixtureMin.max) ∧
    (latched fixtureMax .next 0).GeneratorInv ∧ fixtureMax.max = 0xFFFFFFFFFFFFFFFF ∧
      (0xFFFFFFFFFFFFFFFF : Word) ≤ fixtureMax.max :=
  ⟨⟨⟨by decide, by decide, by decide +kernel, by decide, fun k => fixtureMin_stage k ▸ plainStage_inv_one⟩,
    by decide, by decide⟩,
    ⟨by decide, by decide, by decide +kernel, by decide, fun k => fixtureMax_stage k ▸ plainStage_inv_max⟩,
    by decide, by decide⟩

theorem witness_ModinvIsTheUniqueInverseWithinFive :
    (1 : Word).getLsbD 0 = true ∧ (3 : Word).getLsbD 0 = true ∧ (3 : Word) * 0xAAAAAAAAAAAAAAAB = 1 := by decide +kernel

theorem witness_matrices :
    (identity 1).wfSize 1 ∧ (identity 64).wfSize 64 ∧
    (let a : BitMatrix := BitMatrix.zero.set 0 0b101 |>.set 1 0b010 |>.set 2 0b011
     let b : BitMatrix := BitMatrix.zero.set 0 0b110 |>.set 1 0b010 |>.set 2 0b111
     a.wfSize 3 ∧ b.wfSize 3 ∧ multiply a b 3 = identity 3 ∧ multiply b a 3 = identity 3) := by decide +kernel

/-- The triangular matrices of 95_test_vectors.md §3.2, second row. -/
def lowerExample : BitMatrix := BitMatrix.zero.set 0 0b001 |>.set 1 0b011 |>.set 2 0b111
def upperExample : BitMatrix := BitMatrix.zero.set 0 0b111 |>.set 1 0b110 |>.set 2 0b100

theorem test_triangular_inverses :
    (invLower lowerExample 3).toList.take 4 = [0b001, 0b011, 0b110, 0] ∧
    (invUpper upperExample 3).toList.take 4 = [0b011, 0b110, 0b100, 0] := by decide +kernel

theorem witness_UnitLower : UnitLower lowerExample 3 := by
  refine ⟨by decide +kernel, fun i hi => ⟨?_, fun j hj => ?_⟩⟩
  · interval_cases i <;> decide +kernel
  · rcases Nat.lt_or_ge j 64 with h | h
    · have all : ∀ i : Fin 3, ∀ j : Fin 64, i.val < j.val →
          bit (rowAt lowerExample i.val) j.val = false := by
        decide +kernel
      exact all ⟨i, hi⟩ ⟨j, h⟩ hj
    · exact bit_of_ge h

theorem witness_UnitUpper : UnitUpper upperExample 3 := by
  refine ⟨by decide +kernel, fun i hi => ⟨?_, fun j hj => ?_⟩⟩
  · interval_cases i <;> decide +kernel
  · have all : ∀ i j : Fin 3, j.val < i.val →
        bit (rowAt upperExample i.val) j.val = false := by
      decide +kernel
    exact all ⟨i, hi⟩ ⟨j, by omega⟩ hj

/-- Draws that differ in one bit the factors use. -/
theorem witness_DistinctDraws :
    ∃ i < 2, ∃ j < 2, i ≠ j ∧ bit ((fun _ => 0 : Nat → Word) i) j ≠ bit ((fun _ => 2 : Nat → Word) i) j :=
  ⟨0, by decide, 1, by decide, by decide, by decide⟩

theorem witness_BankIsBuilt : (f1Draws 12).length = 4 * (2 + 1) ∧ (f1Draws 260).length = 4 * (64 + 1) := by
  decide +kernel

theorem witness_MixesUndoEachOther :
    rowH.WF ∧ MixRow.ones.WF ∧ (0xFFFFFFFFFFFFFFFF : Word).toNat < 2 ^ 64 ∧ (1 : Word).toNat < 2 ^ 1 := by
  decide +kernel

theorem witness_NextEnumeratesAPermutation :
    fixture3.status.busy = false ∧ fixture3.status.ready = true ∧ fixture3.GeneratorInv ∧ fixture3.position = 0 ∧
    (0 : Nat) < 3 ∧ 3 ≤ fixture3.max.toNat :=
  ⟨by decide, by decide, witness_generatorInv, by decide, by decide, by decide⟩

theorem witness_StepRunsTheLatchedCommand :
    (latched fixture3 .next 0).inputs = [] ∧ (latched fixture3 .next 0).pend = some ⟨0x11, 0⟩ ∧
    decodeWord 0x11 = .instr .next ∧ decodeTableWord 64 0x11 = some .next := by decide +kernel

/-- A reset in the middle of an INIT that waits for draws. -/
theorem witness_ResetValues :
    ∃ t, step { startingInit with inputs := [.rst] } = .next t ∧ startingInit.status.busy = true := ⟨_, rfl, rfl⟩

theorem witness_EveryStepKeepsTheInvariant :
    (latched fixture3 .next 0).Inv ∧ GoesOn (step (latched fixture3 .next 0)) ∧ startingInit.Inv ∧
    GoesOn (step startingInit) := by
  refine ⟨witness_inv_busy, ?_, witness_inv_waiting, ?_⟩
  · rw [step_nil (by decide), blockStep_exec (p := ⟨0x11, 0⟩) (i := .next) (by decide) (by decide), exec_next,
      runLatched_accepted (p := ⟨0x11, 0⟩) (by decide) (by decide +kernel)]
    split
    · exact ⟨_, rfl⟩
    · exact ⟨_, rfl⟩
  · rw [step_nil (by decide), blockStep_exec (p := ⟨0x10, 3⟩) (i := .init) (by decide) (by decide), exec_init,
      runLatched_accepted (p := ⟨0x10, 3⟩) (by decide) (by decide +kernel)]
    unfold withDraws
    split
    · exact ⟨_, rfl⟩
    · exact ⟨_, rfl⟩

/-- A GENMAT that has taken one draw of two while no word is on offer. -/
def starvedGenmat : State := { startingGenmat with entropy := [] }

/-- A command that commits, and one that waits. -/
theorem witness_NoErrorAfterAcceptance :
    (startingGenmat.Inv ∧ startingGenmat.status.busy = true ∧ GoesOn (blockStep startingGenmat)) ∧
    starvedGenmat.Inv ∧ starvedGenmat.status.busy = true ∧
    ∃ t, blockStep starvedGenmat = .next t ∧ t.status.busy = true := by
  refine ⟨⟨witness_inv_genmat, by decide, ⟨_, rfl⟩⟩, ⟨?_, ?_, ?_⟩, by decide, ⟨_, rfl, by decide +kernel⟩⟩
  · exact ⟨by decide, fun p hp => ⟨.genmat, by cases hp; decide, by cases hp; decide +kernel,
      by cases hp; decide +kernel⟩, fun h => absurd h (by decide)⟩
  · exact fun h => absurd h (by decide)
  · exact fun _ => ⟨by decide, by decide, by decide⟩

theorem witness_BankIsUnobservable : State.reset.status.ready = false ∧ startingInit.status.ready = false := by decide

theorem witness_WriteTable :
    (latched fixture3 .next 0).LatchInv ∧ ¬ ResetsNow (latched fixture3 .next 0) ∧
    ExecutesNow (latched fixture3 .next 0) .next ∧
    WritesNow { State.reset with inputs := [.access (.write 0x18 .w8 7)] } .operand 7 := by
  refine ⟨witness_inv_busy.latch, ?_, ⟨.inl rfl, _, rfl, by decide⟩, ⟨[], rfl⟩⟩
  rintro ⟨rest, h⟩
  exact absurd h (by simp [latched, fixture3, State.reset])

/-- A waiting INIT to which the host writes CMD stays busy. -/
theorem witness_ResultsAppearOnlyAtTheCommit :
    startingInit.Inv ∧ startingInit.status.busy = true ∧
    ∃ t, step { startingInit with inputs := [.access (.write 0x08 .w8 0x11)] } = .next t ∧ t.status.busy = true :=
  ⟨witness_inv_waiting, by decide, ⟨_, rfl, by decide +kernel⟩⟩

theorem witness_OnlyInitAndGenmatDraw :
    startingInit.Inv ∧ ExecutesNow startingInit .init ∧ startingGenmat.Inv ∧ ExecutesNow startingGenmat .genmat :=
  ⟨witness_inv_waiting, ⟨.inl rfl, _, rfl, by decide⟩, witness_inv_genmat, ⟨.inl rfl, _, rfl, by decide⟩⟩

theorem witness_WaitEnds :
    (let s := { startingGenmat with inputs := [.wait] };
      s.inputs = [.wait] ∧ s.pend = some ⟨0x53, 2⟩ ∧ decodeWord 0x53 = .instr .genmat ∧
      drawsNeeded .genmat 2 ≤ s.taken.length + s.entropy.length) ∧ startingGenmat.Inv :=
  ⟨by decide +kernel, witness_inv_genmat⟩

end Sys2Proof.Tests
end

section
/-! PROOFS. Bit-matrices over GF(2) (42_gf2_matrix.md): a bit-matrix of size `n` as a Mathlib matrix over `ZMod 2`, where the
matrix multiplier is the product, and the triangular inverses as inverses there. -/

namespace Sys2Proof.Machine

open Sys2Proof Sys2Proof.Claims

/-! ### Bits as elements of GF(2) -/

theorem bit_and (v w : Word) (j : Nat) : bit (v &&& w) j = (bit v j && bit w j) := BitVec.getLsbD_and

theorem bit_or (v w : Word) (j : Nat) : bit (v ||| w) j = (bit v j || bit w j) := BitVec.getLsbD_or

theorem bit_xor (v w : Word) (j : Nat) : bit (v ^^^ w) j = (bit v j ^^ bit w j) := BitVec.getLsbD_xor

theorem bit_not (v : Word) (j : Nat) : bit (~~~v) j = (decide (j < 64) && !bit v j) := BitVec.getLsbD_not

/-- A bit as an element of GF(2). -/
def gf2 (b : Bool) : ZMod 2 := if b then 1 else 0

@[simp] theorem gf2_false : gf2 false = 0 := rfl

@[simp] theorem gf2_true : gf2 true = 1 := rfl

@[simp] theorem gf2_xor (a b : Bool) : gf2 (a ^^ b) = gf2 a + gf2 b := by
  revert a b; decide

@[simp] theorem gf2_and (a b : Bool) : gf2 (a && b) = gf2 a * gf2 b := by
  revert a b; decide

theorem gf2_injective : Function.Injective gf2 := by decide

/-- Bit `i` of an XOR sum is a sum of products in GF(2) (00_scope.md R21). -/
theorem gf2_bit_xorOver (sel : Word) (term : Nat → Word) (n i : Nat) :
    gf2 (bit (xorOver sel term n) i) = ∑ j ∈ Finset.range n, gf2 (bit sel j) * gf2 (bit (term j) i) := by
  induction n with
  | zero => simp
  | succ n ih => rw [bit_xorOver_succ, gf2_xor, gf2_and, ih, Finset.sum_range_succ]

/-! ### The entries of a bit-matrix -/

/-- The entries of size `n` of a bit-matrix, over GF(2). -/
def entries (n : Nat) (x : BitMatrix) : Matrix (Fin n) (Fin n) (ZMod 2) :=
  Matrix.of fun i j => gf2 (bit (rowAt x i) j)

theorem entries_apply (n : Nat) (x : BitMatrix) (i j : Fin n) : entries n x i j = gf2 (bit (rowAt x i) j) := rfl

theorem rowAt_multiply (a b : BitMatrix) {n i : Nat} (hn : n ≤ 64) (hi : i < n) :
    rowAt (multiply a b n) i = xorOver (rowAt a i) (fun j => rowAt b j &&& mask n) n := by
  have h64 : i < 64 := by omega
  simp [multiply, h64, hi, rowAt]

theorem rowAt_identity {n i : Nat} (hn : n ≤ 64) (hi : i < n) : rowAt (identity n) i = unitVec i := by
  have h64 : i < 64 := by omega
  simp [identity, h64, hi]

theorem entries_multiply {n : Nat} (hn : n ≤ 64) (a b : BitMatrix) :
    entries n (multiply a b n) = entries n a * entries n b := by
  ext i k
  rw [entries_apply, rowAt_multiply a b hn i.isLt, gf2_bit_xorOver, Matrix.mul_apply, ← Fin.sum_univ_eq_sum_range
    (fun j => gf2 (bit (rowAt a i) j) * gf2 (bit (rowAt b j &&& mask n) k))]
  simp [entries_apply, hn]

theorem entries_identity {n : Nat} (hn : n ≤ 64) : entries n (identity n) = 1 := by
  ext i j
  have hj : j.val < 64 := by omega
  rw [entries_apply, rowAt_identity hn i.isLt, bit_unitVec, Matrix.one_apply]
  by_cases h : i = j
  · simp [h, hj]
  · simp [h, Fin.val_ne_of_ne h]

/-! ### Well-formed bit-matrices -/

/-- A bit-matrix is well-formed of size `n` when every bit set has its row and its column below `n`. -/
theorem wfSize_iff {x : BitMatrix} {n : Nat} (hn : n ≤ 64) :
    x.wfSize n ↔ ∀ i j, bit (rowAt x i) j = true → i < n ∧ j < n := by
  constructor
  · intro hx i j hb
    by_cases hi : i < 64
    · obtain ⟨hcol, hrow⟩ := hx ⟨i, hi⟩
      have hj64 := BitVec.lt_of_getLsbD hb
      rw [rowAt, dif_pos hi] at hb
      refine ⟨Nat.not_le.mp fun h => ?_, Nat.not_le.mp fun h => ?_⟩
      · rw [show x[i] = 0 from hrow h] at hb
        simp at hb
      · have hset : bit (x[i] &&& ~~~mask n) j = true := by
          rw [bit_and, bit_not, bit_mask hn, hb]
          simp [hj64, h]
        rw [show x[i] &&& ~~~mask n = 0 from hcol] at hset
        simp at hset
    · simp [rowAt, hi] at hb
  · intro h i
    have hb (j : Nat) (hset : bit x[i] j = true) : i.val < n ∧ j < n := h i j (rowAt_eq_getElem x i ▸ hset)
    refine ⟨BitVec.eq_of_getLsbD_eq fun j hj => ?_, fun hi => BitVec.eq_of_getLsbD_eq fun j hj => ?_⟩
    · rw [← bit, bit_and, bit_not, bit_mask hn]
      cases hx : bit x[i] j with
      | false => simp
      | true => simp [hj, (hb j hx).2]
    · cases hx : bit x[i] j with
      | false => simpa using hx
      | true => exact absurd (hb j hx).1 (Nat.not_lt.mpr hi)

/-- A well-formed bit-matrix is known by its entries. -/
theorem eq_of_entries_eq {x y : BitMatrix} {n : Nat} (hn : n ≤ 64) (hx : x.wfSize n) (hy : y.wfSize n)
    (h : entries n x = entries n y) : x = y := by
  refine Vector.ext fun i hi => BitVec.eq_of_getLsbD_eq fun j _ => ?_
  have hxr : bit (rowAt x i) j = x[i].getLsbD j := by simp [rowAt, hi]
  have hyr : bit (rowAt y i) j = y[i].getLsbD j := by simp [rowAt, hi]
  rw [← hxr, ← hyr]
  by_cases hij : i < n ∧ j < n
  · exact gf2_injective (congrFun (congrFun h ⟨i, hij.1⟩) ⟨j, hij.2⟩)
  · have hx0 := mt ((wfSize_iff hn).mp hx i j) hij
    have hy0 := mt ((wfSize_iff hn).mp hy i j) hij
    rw [Bool.eq_false_of_not_eq_true hx0, Bool.eq_false_of_not_eq_true hy0]

theorem multiply_wfSize {n : Nat} (hn : n ≤ 64) (a b : BitMatrix) : (multiply a b n).wfSize n := by
  refine (wfSize_iff hn).mpr fun i j hb => ?_
  by_cases hi : i < n
  · rw [rowAt_multiply a b hn hi, ← xorOver_and, bit_and, bit_mask hn, Bool.and_eq_true, decide_eq_true_eq] at hb
    exact ⟨hi, hb.2⟩
  · simp [multiply, hi] at hb

theorem identity_wfSize {n : Nat} (hn : n ≤ 64) : (identity n).wfSize n := by
  refine (wfSize_iff hn).mpr fun i j hb => ?_
  by_cases hi : i < n
  · rw [rowAt_identity hn hi, bit_unitVec] at hb
    simp_all
  · simp [identity, hi] at hb

/-- Bit-matrices whose entries are inverse to each other have the identity as their product. -/
theorem multiply_eq_identity {x y : BitMatrix} {n : Nat} (hn : n ≤ 64) (h : entries n x * entries n y = 1) :
    multiply x y n = identity n :=
  eq_of_entries_eq hn (multiply_wfSize hn x y) (identity_wfSize hn) (by rw [entries_multiply hn, h, entries_identity hn])

/-! ### Triangular inverses -/

/-- Substitution: where the diagonal of `x` is 1 and each row of `y` is the unit vector plus the rows of `y` that the rest
of the row of `x` selects, `y` is a right inverse of `x`. -/
theorem entries_mul_eq_one {x y : BitMatrix} {n : Nat} (hn : n ≤ 64) (hdiag : ∀ i < n, bit (rowAt x i) i = true)
    (hrow : ∀ i < n, ∀ k, gf2 (bit (rowAt y i) k) = gf2 (bit (unitVec i) k) +
      ∑ j ∈ (Finset.range n).erase i, gf2 (bit (rowAt x i) j) * gf2 (bit (rowAt y j) k)) :
    entries n x * entries n y = 1 := by
  rw [← entries_identity hn]
  ext i k
  rw [Matrix.mul_apply, entries_apply, rowAt_identity hn i.isLt]
  simp only [entries_apply]
  rw [Fin.sum_univ_eq_sum_range (fun j => gf2 (bit (rowAt x i) j) * gf2 (bit (rowAt y j) k)),
    ← Finset.add_sum_erase _ _ (Finset.mem_range.mpr i.isLt), hdiag i i.isLt, gf2_true, one_mul, hrow i i.isLt,
    add_assoc, CharTwo.add_self_eq_zero, add_zero]

theorem length_invLowerRows (l : BitMatrix) (n : Nat) : (invLowerRows l n).length = n := by
  induction n with
  | zero => rfl
  | succ n ih => simp [invLowerRows, ih]

/-- Later rows leave the rows already computed alone. -/
theorem getD_invLowerRows (l : BitMatrix) {i n : Nat} (h : i < n) :
    (invLowerRows l n).getD i 0 = (invLowerRows l (i + 1)).getD i 0 := by
  induction n with
  | zero => omega
  | succ n ih =>
    by_cases hi : i = n
    · rw [hi]
    · rw [← ih (by omega), invLowerRows, List.getD_append _ _ _ _ (by rw [length_invLowerRows]; omega)]

/-- The row rule of `inv_lower` (42_gf2_matrix.md R163). -/
theorem rowAt_invLower (l : BitMatrix) {n i : Nat} (hn : n ≤ 64) (hi : i < n) :
    rowAt (invLower l n) i = unitVec i ^^^ xorOver (rowAt l i) (rowAt (invLower l n)) i := by
  have row (j : Nat) (hj : j < n) : rowAt (invLower l n) j = (invLowerRows l n).getD j 0 := by
    rw [invLower, rowAt_ofFn, dif_pos (by omega)]
  rw [row i hi, getD_invLowerRows l hi, invLowerRows,
    List.getD_append_right _ _ _ _ (by rw [length_invLowerRows]), length_invLowerRows]
  simp only [Nat.sub_self, List.getD_cons_zero]
  congr 1
  refine xorOver_congr (fun _ _ => rfl) fun j hj _ => ?_
  rw [row j (by omega), getD_invLowerRows l hj, getD_invLowerRows l (by omega : j < n)]

theorem entries_mul_invLower {l : BitMatrix} {n : Nat} (hn : n ≤ 64) (hl : UnitLower l n) :
    entries n l * entries n (invLower l n) = 1 := by
  refine entries_mul_eq_one hn (fun i hi => (hl.2 i hi).1) fun i hi k => ?_
  rw [rowAt_invLower l hn hi, bit_xor, gf2_xor, gf2_bit_xorOver]
  congr 1
  refine Finset.sum_subset (fun j hj => ?_) fun j hj hji => ?_
  · simp only [Finset.mem_range, Finset.mem_erase] at hj ⊢
    omega
  · simp only [Finset.mem_range, Finset.mem_erase] at hj hji
    rw [(hl.2 i hi).2 j (by omega), gf2_false, zero_mul]

/-- Rows computed later stand in front of those already computed. -/
theorem getD_invUpperRows (u : BitMatrix) (n k d j : Nat) :
    (invUpperRows u n (k + d)).getD (d + j) 0 = (invUpperRows u n k).getD j 0 := by
  induction d with
  | zero => rw [Nat.add_zero, Nat.zero_add]
  | succ d ih => rw [← Nat.add_assoc, invUpperRows, Nat.add_right_comm d, List.getD_cons_succ, ih]

/-- The row rule of `inv_upper` (42_gf2_matrix.md R164). -/
theorem rowAt_invUpper (u : BitMatrix) {n i : Nat} (hn : n ≤ 64) (hi : i < n) :
    rowAt (invUpper u n) i =
      unitVec i ^^^ xorOver (rowAt u i) (fun j => if i < j then rowAt (invUpper u n) j else 0) n := by
  have row (j : Nat) (hj : j < n) : rowAt (invUpper u n) j = (invUpperRows u n n).getD j 0 := by
    rw [invUpper, rowAt_ofFn, dif_pos (by omega)]
  obtain ⟨k, rfl⟩ : ∃ k, n = k + 1 + i := ⟨n - 1 - i, by omega⟩
  have hki : k + 1 + i - (k + 1) = i := by omega
  have first := getD_invUpperRows u (k + 1 + i) (k + 1) i 0
  rw [i.add_zero] at first
  rw [row i hi, first, invUpperRows, List.getD_cons_zero, hki]
  congr 1
  refine xorOver_congr (fun _ _ => rfl) fun j hj _ => ?_
  by_cases hij : i < j
  · have later := getD_invUpperRows u (k + 1 + i) k (i + 1) (j - (i + 1))
    rw [show k + (i + 1) = k + 1 + i by omega, show i + 1 + (j - (i + 1)) = j by omega] at later
    rw [if_pos hij, if_pos hij, row j hj, later]
  · rw [if_neg hij, if_neg hij]

theorem entries_mul_invUpper {u : BitMatrix} {n : Nat} (hn : n ≤ 64) (hu : UnitUpper u n) :
    entries n u * entries n (invUpper u n) = 1 := by
  refine entries_mul_eq_one hn (fun i hi => (hu.2 i hi).1) fun i hi k => ?_
  rw [rowAt_invUpper u hn hi, bit_xor, gf2_xor, gf2_bit_xorOver,
    ← Finset.sum_erase (a := i) _ (by simp)]
  congr 1
  refine Finset.sum_congr rfl fun j hj => ?_
  simp only [Finset.mem_range, Finset.mem_erase] at hj
  by_cases hij : i < j
  · rw [if_pos hij]
  · rw [(hu.2 i hi).2 j (by omega), gf2_false, zero_mul, zero_mul]

/-! ### The generated matrices (42_gf2_matrix.md R166, R167) -/

theorem unitVec_sub_one {i : Nat} (hi : i < 64) : unitVec i - 1 = mask i := by
  have hu : unitVec i = BitVec.twoPow 64 i := rfl
  have hpow : 2 ^ i < 2 ^ 64 := Nat.pow_lt_pow_right (by omega) hi
  have hpos : 0 < 2 ^ i := Nat.two_pow_pos i
  refine BitVec.eq_of_toNat_eq ?_
  rw [toNat_mask hi.le, hu, BitVec.toNat_sub, BitVec.toNat_twoPow, Nat.mod_eq_of_lt hpow]
  have hone : (1 : Word).toNat = 1 := rfl
  omega

/-- The bits of the factor `A`: those of the draw below the diagonal, and the diagonal. -/
theorem bit_lowerFactor {n i j : Nat} (hn : n ≤ 64) (r : Nat → Word) :
    bit (rowAt (lowerFactor n r) i) j = (decide (i < n) && (bit (r i) j && decide (j < i) || decide (j = i))) := by
  by_cases hi : i < n
  · have h64 : i < 64 := by omega
    rw [lowerFactor, rowAt_ofFn, dif_pos h64, if_pos hi, unitVec_sub_one h64, bit_or, bit_and, bit_mask h64.le, bit_unitVec]
    by_cases hj : j < 64
    · simp [hi, hj, eq_comm]
    · simp [hi, hj, show j ≠ i by omega, show ¬ j < i by omega]
  · simp [lowerFactor, hi]

/-- The bits of the factor `B`: the diagonal, and those of the draw above it and below `n`. -/
theorem bit_upperFactor {n i j : Nat} (hn : n ≤ 64) (r : Nat → Word) :
    bit (rowAt (upperFactor n r) i) j =
      (decide (i < n) && (bit (r i) j && decide (i < j ∧ j < n) || decide (j = i))) := by
  by_cases hi : i < n
  · have h64 : i < 64 := by omega
    rw [upperFactor, rowAt_ofFn, dif_pos h64, if_pos hi, unitVec_sub_one h64, bit_or, bit_and, bit_and,
      bit_not, bit_or, bit_mask h64.le, bit_mask hn, bit_unitVec]
    have habove : (decide (j < n) && (decide (j < 64) && !(decide (j < 64) && decide (i = j) || decide (j < i)))) =
        decide (i < j ∧ j < n) := by
      rw [Bool.eq_iff_iff]
      simp only [Bool.and_eq_true, Bool.not_eq_true', Bool.or_eq_false_iff, Bool.and_eq_false_iff, decide_eq_true_eq,
        decide_eq_false_iff_not]
      omega
    have hdiag : (decide (j < 64) && decide (i = j)) = decide (j = i) := by
      rw [← Bool.decide_and, decide_eq_decide]
      omega
    rw [Bool.and_assoc, habove, hdiag, decide_eq_true hi, Bool.true_and]
  · simp [upperFactor, hi]

theorem lowerFactor_unitLower {n : Nat} (hn : n ≤ 64) (r : Nat → Word) : UnitLower (lowerFactor n r) n := by
  refine ⟨(wfSize_iff hn).mpr fun i j hb => ?_, fun i hi => ⟨?_, fun j hj => ?_⟩⟩
  · simp only [bit_lowerFactor hn, Bool.and_eq_true, Bool.or_eq_true, decide_eq_true_eq] at hb
    omega
  · simp [bit_lowerFactor hn, hi]
  · simp [bit_lowerFactor hn, Nat.not_lt.mpr hj.le, hj.ne']

theorem upperFactor_unitUpper {n : Nat} (hn : n ≤ 64) (r : Nat → Word) : UnitUpper (upperFactor n r) n := by
  refine ⟨(wfSize_iff hn).mpr fun i j hb => ?_, fun i hi => ⟨?_, fun j hj => ?_⟩⟩
  · simp only [bit_upperFactor hn, Bool.and_eq_true, Bool.or_eq_true, decide_eq_true_eq] at hb
    omega
  · simp [bit_upperFactor hn, hi]
  · simp [bit_upperFactor hn, Nat.not_lt.mpr hj.le, hj.ne]

/-- `A·B·B⁻¹·A⁻¹ = I` (R167, R168). -/
theorem genMatrix_mul_genInverse {n : Nat} (hn : n ≤ 64) (r : Nat → Word) :
    entries n (genMatrix n r) * entries n (genInverse n r) = 1 := by
  have hl := entries_mul_invLower hn (lowerFactor_unitLower hn r)
  have hu := entries_mul_invUpper hn (upperFactor_unitUpper hn r)
  rw [genMatrix, genInverse, entries_multiply hn, entries_multiply hn, Matrix.mul_assoc, ← Matrix.mul_assoc _ _ (entries n
    (invLower _ n)), hu, Matrix.one_mul, hl]

theorem multiply_genMatrix_genInverse {n : Nat} (hn : n ≤ 64) (r : Nat → Word) :
    multiply (genMatrix n r) (genInverse n r) n = identity n :=
  multiply_eq_identity hn (genMatrix_mul_genInverse hn r)

theorem multiply_genInverse_genMatrix {n : Nat} (hn : n ≤ 64) (r : Nat → Word) :
    multiply (genInverse n r) (genMatrix n r) n = identity n :=
  multiply_eq_identity hn (mul_eq_one_comm.mp (genMatrix_mul_genInverse hn r))

end Sys2Proof.Machine
end

section
/-! PROOFS. What the bank builder and BitWidth give whatever the draws: odd multipliers with their inverses (41_modinv.md
R142), a width in 1..64 (45_permutation.md R270), and stages with the invariants of 10_state.md R41. -/

namespace Sys2Proof.Machine

open Sys2Proof

/-! ### The Newton loop on an odd value -/

theorem two_pow_eq_zero {k : Nat} (hk : 64 ≤ k) : (2 ^ k : Word) = 0 := by
  have h64 : ((2 ^ 64 : Nat) : Word) = 0 := by
    rw [BitVec.natCast_eq_ofNat]
    decide
  rw [Nat.cast_pow] at h64
  exact pow_eq_zero_of_le hk h64

theorem bit_zero_eq (v : Word) : bit v 0 = decide (v.toNat % 2 = 1) := Nat.testBit_zero v.toNat

theorem two_dvd_of_even {v : Word} (hv : bit v 0 = false) : (2 : Word) ∣ v := by
  refine ⟨v >>> 1, BitVec.eq_of_toNat_eq ?_⟩
  rw [bit_zero_eq, decide_eq_false_iff_not] at hv
  rw [BitVec.toNat_mul, BitVec.toNat_ushiftRight, Nat.shiftRight_eq_div_pow, show (2 : Word).toNat = 2 from rfl]
  omega

theorem bit_zero_add_one (v : Word) : bit (v + 1) 0 = !bit v 0 := by
  rw [bit_zero_eq, bit_zero_eq, ← decide_not, decide_eq_decide, BitVec.toNat_add, show (1 : Word).toNat = 1 from rfl]
  omega

/-- The square of an odd word is 1 modulo 8 (41_modinv.md R143). -/
theorem eight_dvd_one_sub_square {x : Word} (hx : bit x 0 = true) : (2 ^ 3 : Word) ∣ 1 - x * x := by
  obtain ⟨q, hq⟩ : (2 : Word) ∣ x + 1 := two_dvd_of_even (by rw [bit_zero_add_one, hx, Bool.not_true])
  obtain ⟨t, ht⟩ : (2 : Word) ∣ q * (q + 1) := by
    cases hb : bit q 0 with
    | false => exact (two_dvd_of_even hb).mul_right _
    | true => exact (two_dvd_of_even (by rw [bit_zero_add_one, hb, Bool.not_true])).mul_left _
  exact ⟨q - t, by linear_combination (1 - x - 2 * q) * hq - 4 * ht⟩

/-- Where `2^k` divides the error `1 - x*y` and doubling `k` once per update reaches 64, the loop ends with the inverse. -/
theorem modinvLoop_inverse {x y : Word} {k fuel it : Nat} (hk : (2 ^ k : Word) ∣ 1 - x * y)
    (hf : 64 ≤ k * 2 ^ fuel) : x * (modinvLoop x fuel y it).1 = 1 := by
  induction fuel generalizing y k it with
  | zero =>
    rw [two_pow_eq_zero (by omega), zero_dvd_iff, sub_eq_zero] at hk
    exact hk.symm
  | succ fuel ih =>
    by_cases h : x * y = 1
    · rw [modinvLoop_stop h, h]
    · rw [modinvLoop_update h]
      refine ih (k := k + k) ?_ (by rw [Nat.add_mul, ← Nat.mul_two, Nat.mul_assoc, ← Nat.pow_succ]; exact hf)
      rw [modinv_error_square, pow_add]
      exact mul_dvd_mul hk hk

theorem mul_modinv {x : Word} (hx : bit x 0 = true) : x * (modinv x).1 = 1 :=
  modinvLoop_inverse (eight_dvd_one_sub_square hx) (by decide)

/-! ### BitWidth -/

theorem leastWidth_bounds (m : Word) (fuel w : Nat) : w ≤ leastWidth m fuel w ∧ leastWidth m fuel w ≤ w + fuel := by
  induction fuel generalizing w with
  | zero => exact ⟨le_rfl, le_rfl⟩
  | succ fuel ih =>
    unfold leastWidth
    split
    · omega
    · have := ih (w + 1)
      omega

theorem one_le_bitwidth (m : Word) : 1 ≤ bitwidth m := (leastWidth_bounds m 63 1).1

theorem bitwidth_le (m : Word) : bitwidth m ≤ 64 := (leastWidth_bounds m 63 1).2

/-! ### The bank -/

theorem genMatrix_wfSize {n : Nat} (hn : n ≤ 64) (r : Nat → Word) : (genMatrix n r).wfSize n := multiply_wfSize hn _ _

theorem genInverse_wfSize {n : Nat} (hn : n ≤ 64) (r : Nat → Word) : (genInverse n r).wfSize n := multiply_wfSize hn _ _

theorem bit_or_one (v : Word) : bit (v ||| 1) 0 = true := by
  rw [bit_or]
  simp

/-- Whatever the draws, a built stage has the invariants of 10_state.md R41. -/
theorem buildStage_inv {n : Nat} (hn : n ≤ 64) (ds : List Word) (k : Nat) : (buildStage n ds k).Inv n where
  m_wf := genMatrix_wfSize hn _
  minv_wf := genInverse_wfSize hn _
  m_minv := multiply_genMatrix_genInverse hn _
  minv_m := multiply_genInverse_genMatrix hn _
  mult_odd := bit_or_one _
  mult_imult := mul_modinv (bit_or_one _)

theorem width_install (s : State) (m : Word) (ds : List Word) : (s.install m ds).width = bitwidth m := by
  have := bitwidth_le m
  rw [State.width, State.install_bits, BitVec.toNat_ofNat, Nat.mod_eq_of_lt (by omega)]

/-- INIT installs a GeneratorState, whatever the draws (45_permutation.md R276). -/
theorem install_generatorInv (s : State) (m : Word) (ds : List Word) : (s.install m ds).GeneratorInv where
  width_min := width_install s m ds ▸ one_le_bitwidth m
  width_max := width_install s m ds ▸ bitwidth_le m
  width_eq := width_install s m ds
  position_le := Nat.zero_le _
  stages k := by
    rw [width_install]
    simpa [buildBank] using buildStage_inv (bitwidth_le m) ds k

end Sys2Proof.Machine
end

section
/-! PROOFS. What one step can do, once: a command's commit, an `exec` that goes on, and a step of the machine (R25, R47). -/

namespace Sys2Proof.Machine

open Sys2Proof Sys2Proof.Claims

/-! ### What a command writes before its commit -/

/-- The state in which a command that needs `need` draws has taken them from the port (20_memory.md R82). -/
def State.afterDraws (s : State) (need : Nat) : State :=
  { s with taken := [], entropy := s.entropy.drop (need - s.taken.length) }

/-- The draws that a command takes which needs `need` of them, in their order. -/
def State.draws (s : State) (need : Nat) : List Word := (s.taken ++ s.entropy).take need

@[simp] theorem State.afterDraws_scr (s : State) (need : Nat) : (s.afterDraws need).scr = s.scr := rfl

@[simp] theorem State.afterDraws_taken (s : State) (need : Nat) : (s.afterDraws need).taken = [] := rfl

@[simp] theorem State.afterDraws_entropy (s : State) (need : Nat) :
    (s.afterDraws need).entropy = s.entropy.drop (need - s.taken.length) := rfl

/-- `s.Writes x i u c`: run on the operand `x` in the state `s`, the command `i` leaves the results that its rule names in
`u`, and its commit writes the work count `c`. -/
inductive State.Writes (s : State) (x : Word) : Instr → State → Word → Prop
  | nop : s.Writes x .nop s 0
  | clrerr : s.Writes x .clrerr s.clearOvr 0
  | result (i : Instr) (r c : Word) : writesResult i = true → i ≠ .next → s.Writes x i (s.setResult r) c
  | next (r c : Word) : s.Writes x .next (s.advance.setResult r) c
  | init : drawsNeeded .init x ≤ s.taken.length + s.entropy.length →
      s.Writes x .init ((s.afterDraws (drawsNeeded .init x)).install x (s.draws (drawsNeeded .init x)))
        (BitVec.ofNat 64 (drawsNeeded .init x))
  | scrWr (k : BitVec 2) (row : BitVec 6) : s.Writes x (.scrWr k row) (s.setScratchRow k.toNat row x) 0
  | matmul (m : BitMatrix) : s.Writes x .matmul (s.setScratch 2 m) 0
  | genmat (a b : BitMatrix) : drawsNeeded .genmat x ≤ s.taken.length + s.entropy.length →
      s.Writes x .genmat (((s.afterDraws (drawsNeeded .genmat x)).setScratch 0 a).setScratch 1 b) x

/-- What the meaning of the latched command `i` can do to `s`, whose latch holds `p`: end as a rejection because a check
does not hold (log 3), wait for draws (R83), stay in a rejection loop without end (log 9), or commit (R112). -/
inductive State.ExecMove (s : State) (p : Pending) (i : Instr) : State → Prop
  | abort (e : ErrCode) : check i p.operand s = some e → s.ExecMove p i (s.abort e)
  | wait : check i p.operand s = none → s.taken.length + s.entropy.length < drawsNeeded i p.operand →
      s.ExecMove p i { s with taken := s.taken ++ s.entropy, entropy := [] }
  | loop : check i p.operand s = none →
      i = .next ∧ s.walkFwd s.position = none ∨ i = .undo ∧ s.walkInv p.operand = none → s.ExecMove p i s
  | commit (u : State) (c : Word) : check i p.operand s = none → s.Writes p.operand i u c →
      s.ExecMove p i (u.commit c)

theorem runLatched_move {i : Instr} {s t : State} {body : Word → Out} (h : runLatched i s body = .next t)
    (hbody : ∀ p, check i p.operand s = none → body p.operand = .next t → s.ExecMove p i t) :
    ∃ p, s.pend = some p ∧ s.ExecMove p i t := by
  obtain ⟨p, hp, ⟨e, he, rfl⟩ | ⟨hc, ht⟩⟩ := runLatched_cases h
  · exact ⟨p, hp, .abort e he⟩
  · exact ⟨p, hp, hbody p hc ht⟩

/-- The move of a command that commits in its one step. -/
theorem runLatched_commit_move {i : Instr} {s t : State} {u : Word → State} {c : Word → Word}
    (hw : ∀ x, s.Writes x i (u x) (c x)) (h : runLatched i s (fun x => .next ((u x).commit (c x))) = .next t) :
    ∃ p, s.pend = some p ∧ s.ExecMove p i t := by
  refine runLatched_move h fun p hc ht => ?_
  cases ht
  exact .commit _ _ hc (hw p.operand)

/-- The move of a command that writes RESULT and commits in its one step. -/
theorem runLatched_result_move {i : Instr} {s t : State} {r c : Word → Word} (hi : writesResult i = true)
    (hn : i ≠ .next) (h : runLatched i s (fun x => .next ((s.setResult (r x)).commit (c x))) = .next t) :
    ∃ p, s.pend = some p ∧ s.ExecMove p i t :=
  runLatched_commit_move (fun _ => .result i _ _ hi hn) h

/-- The move of a command that draws before it commits. -/
theorem runLatched_withDraws_move {i : Instr} {s t : State} {u : Word → List Word → State → State} {c : Word → Word}
    (hw : ∀ x, drawsNeeded i x ≤ s.taken.length + s.entropy.length →
      s.Writes x i (u x (s.draws (drawsNeeded i x)) (s.afterDraws (drawsNeeded i x))) (c x))
    (h : runLatched i s (fun x => withDraws (drawsNeeded i x) s fun ds s' => .next ((u x ds s').commit (c x))) =
      .next t) : ∃ p, s.pend = some p ∧ s.ExecMove p i t := by
  refine runLatched_move h fun p hc ht => ?_
  by_cases hlen : s.taken.length + s.entropy.length < drawsNeeded i p.operand
  · rw [withDraws_short hlen] at ht
    cases ht
    exact .wait hc hlen
  · rw [withDraws_enough (Nat.not_lt.mp hlen)] at ht
    cases ht
    exact .commit _ _ hc (hw p.operand (Nat.not_lt.mp hlen))

/-- Every `exec` that goes on found a full latch, and is one of the moves. -/
theorem exec_move {i : Instr} {s t : State} (h : exec i s = .next t) : ∃ p, s.pend = some p ∧ s.ExecMove p i t := by
  cases i with
  | nop => exact runLatched_commit_move (fun _ => .nop) ((exec_nop s).symm.trans h)
  | clrerr => exact runLatched_commit_move (fun _ => .clrerr) ((exec_clrerr s).symm.trans h)
  | init => exact runLatched_withDraws_move (fun _ hlen => .init hlen) ((exec_init s).symm.trans h)
  | next =>
    refine runLatched_move ((exec_next s).symm.trans h) fun p hc ht => ?_
    cases hw : s.walkFwd s.position with
    | some zc =>
      simp only [hw] at ht
      cases ht
      exact .commit _ _ hc (.next _ _)
    | none =>
      simp only [hw] at ht
      cases ht
      exact .loop hc (.inl ⟨rfl, hw⟩)
  | undo =>
    refine runLatched_move ((exec_undo s).symm.trans h) fun p hc ht => ?_
    cases hw : s.walkInv p.operand with
    | some zc =>
      simp only [hw] at ht
      cases ht
      exact .commit _ _ hc (.result _ _ _ rfl nofun)
    | none =>
      simp only [hw] at ht
      cases ht
      exact .loop hc (.inr ⟨rfl, hw⟩)
  | modinv => exact runLatched_result_move rfl nofun ((exec_modinv s).symm.trans h)
  | mixFwd => exact runLatched_result_move rfl nofun ((exec_mixFwd s).symm.trans h)
  | mixInv => exact runLatched_result_move rfl nofun ((exec_mixInv s).symm.trans h)
  | stageFwd k => exact runLatched_result_move rfl nofun ((exec_stageFwd k s).symm.trans h)
  | stageInv k => exact runLatched_result_move rfl nofun ((exec_stageInv k s).symm.trans h)
  | matvec k sel => exact runLatched_result_move rfl nofun ((exec_matvec k sel s).symm.trans h)
  | passFwd => exact runLatched_result_move rfl nofun ((exec_passFwd s).symm.trans h)
  | passInv => exact runLatched_result_move rfl nofun ((exec_passInv s).symm.trans h)
  | readRow k sel row => exact runLatched_result_move rfl nofun ((exec_readRow k sel row s).symm.trans h)
  | readMult k sel => exact runLatched_result_move rfl nofun ((exec_readMult k sel s).symm.trans h)
  | readMixc row => exact runLatched_result_move rfl nofun ((exec_readMixc row s).symm.trans h)
  | scrWr k row => exact runLatched_commit_move (fun _ => .scrWr k row) ((exec_scrWr k row s).symm.trans h)
  | scrRd k row => exact runLatched_result_move rfl nofun ((exec_scrRd k row s).symm.trans h)
  | matmul => exact runLatched_commit_move (fun _ => .matmul _) ((exec_matmul s).symm.trans h)
  | genmat => exact runLatched_withDraws_move (fun _ hlen => .genmat _ _ hlen) ((exec_genmat s).symm.trans h)

/-! ### The CMD write and the bus -/

theorem check_ne_ok {i : Instr} {x : Word} {s : State} {e : ErrCode} (h : check i x s = some e) : e ≠ .ok := by
  rintro rfl
  unfold check at h
  split at h
  · cases h
  · split at h
    · cases h
    · unfold operandCheck at h
      split at h
      case h_5 => cases h
      all_goals split at h <;> cases h

theorem decodeErrCode_ne_ok (e : DecodeError) : decodeErrCode e ≠ .ok := by
  cases e <;> decide

/-- A CMD write to the idle block is rejected with a code that is an error, or accepted (30_encoding.md R110). -/
theorem issue_idle_cases {s : State} (v : Word) (h : s.status.busy = false) :
    (∃ e, e ≠ .ok ∧ s.issue v = s.reject e) ∨
    ∃ i, decodeWord v = .instr i ∧ check i s.operand s = none ∧ s.issue v = s.accept v := by
  cases hd : decodeWord v with
  | rejected e => exact .inl ⟨_, decodeErrCode_ne_ok e, issue_undecoded h hd⟩
  | instr i =>
    cases hc : check i s.operand s with
    | some e => exact .inl ⟨e, check_ne_ok hc, issue_rejected h hd hc⟩
    | none => exact .inr ⟨i, rfl, hc, issue_accepted h hd hc⟩

theorem offset_of_ofOffset {off : BitVec 8} {r : Reg} (h : Reg.ofOffset off = some r) : off = r.offset := by
  have hr : r.offset = off := by simpa using List.find?_some h
  exact hr.symm

/-- An access does nothing but record its response, or it is a 64-bit write to CMD or to OPERAND (20_memory.md R76). -/
theorem busAccess_effect (s : State) (a : Access) :
    (∃ r, s.busAccess a = { s with resp := r }) ∨
    (∃ v, a = .write (Reg.offset .cmd) .w8 v ∧ s.busAccess a = { s.issue v with resp := some .ack }) ∨
    (∃ v, a = .write (Reg.offset .operand) .w8 v ∧ s.busAccess a = { s with operand := v, resp := some .ack }) := by
  cases a with
  | read off width =>
    by_cases h : accessOk off width = true
    · exact .inl ⟨_, if_pos h⟩
    · exact .inl ⟨some .error, if_neg h⟩
  | write off width v =>
    by_cases h : accessOk off width = true
    · cases hr : Reg.ofOffset off with
      | none => exact .inl ⟨some .ack, by simp [State.busAccess, h, hr]⟩
      | some r =>
        obtain rfl := offset_of_ofOffset hr
        obtain rfl : width = .w8 := by
          rw [accessOk, Bool.and_eq_true, beq_iff_eq] at h
          exact h.1
        rw [busAccess_write]
        cases r with
        | cmd => exact .inr (.inl ⟨v, rfl, rfl⟩)
        | operand => exact .inr (.inr ⟨v, rfl, rfl⟩)
        | _ => exact .inl ⟨_, rfl⟩
    · exact .inl ⟨some .error, if_neg h⟩

/-! ### The step -/

/-- What one step can do to `s`. The state that the step leaves is named by what differs from `s`; the events that it leaves
are `ins`. -/
inductive State.StepMove (s : State) : State → Prop
  /-- Nothing of the block changes: a read, an ignored or refused access, a poll, an idle turn of the block agent, or a
  turn of it in a rejection loop without end. -/
  | quiet (ins : List Input) (rs : Option BusResponse) : s.StepMove { s with inputs := ins, resp := rs }
  /-- The source offers a word. -/
  | offered (w : Word) (ins : List Input) : s.inputs = .offer w :: ins →
      s.StepMove { s with entropy := s.entropy ++ [w], inputs := ins }
  /-- A latched command takes the words on offer and waits for more. -/
  | waits (p : Pending) (i : Instr) (ins : List Input) : s.pend = some p → decodeWord p.word = .instr i →
      s.taken.length + s.entropy.length < drawsNeeded i p.operand →
      s.StepMove { s with taken := s.taken ++ s.entropy, entropy := [], inputs := ins }
  /-- The host writes OPERAND. -/
  | operand (v : Word) (ins : List Input) (rs : Option BusResponse) : WritesNow s .operand v →
      s.StepMove { s with operand := v, inputs := ins, resp := rs }
  /-- The host writes CMD while BUSY. -/
  | dropped (v : Word) (ins : List Input) (rs : Option BusResponse) : WritesNow s .cmd v → s.status.busy = true →
      s.StepMove { s with status := { s.status with ovr := true }, inputs := ins, resp := rs }
  /-- The host writes CMD on the idle block, which rejects the word. -/
  | rejected (v : Word) (e : ErrCode) (ins : List Input) (rs : Option BusResponse) : WritesNow s .cmd v →
      s.status.busy = false → e ≠ .ok →
      s.StepMove { s with status := { s.status with err := e }, inputs := ins, resp := rs }
  /-- The host writes CMD on the idle block, which accepts the word. -/
  | accepted (v : Word) (i : Instr) (ins : List Input) (rs : Option BusResponse) : WritesNow s .cmd v →
      s.status.busy = false → decodeWord v = .instr i → check i s.operand s = none →
      s.StepMove { s with
        pend := some ⟨v, s.operand⟩, status := { s.status with busy := true }, inputs := ins, resp := rs }
  /-- The latched command commits. -/
  | committed (p : Pending) (i : Instr) (u : State) (c : Word) (ins : List Input) : ExecutesNow s i → s.pend = some p →
      decodeWord p.word = .instr i → check i p.operand s = none →
      State.Writes { s with inputs := ins } p.operand i u c → s.StepMove (u.commit c)
  /-- A latched word that no acceptance leaves ends as a rejection (log 3). -/
  | aborted (p : Pending) (e : ErrCode) (ins : List Input) : s.pend = some p →
      (∀ i, decodeWord p.word = .instr i → check i p.operand s ≠ none) → s.StepMove { s.abort e with inputs := ins }
  /-- Reset. -/
  | reset (ins : List Input) : ResetsNow s → s.StepMove { s.applyReset with inputs := ins }

/-- The move of the block agent's turn. -/
theorem blockStep_move {s t : State} {ins : List Input} (hin : s.inputs = [] ∨ ∃ rest, s.inputs = .block :: rest)
    (h : blockStep { s with inputs := ins } = .next t) : s.StepMove t := by
  cases hp : s.pend with
  | none =>
    cases (blockStep_idle (s := { s with inputs := ins }) hp).symm.trans h
    exact .quiet ins s.resp
  | some p =>
    cases hd : decodeWord p.word with
    | rejected e =>
      cases (blockStep_undecoded (s := { s with inputs := ins }) hp hd).symm.trans h
      exact .aborted p _ ins hp fun i hi => absurd (hd.symm.trans hi) nofun
    | instr i =>
      obtain ⟨q, hq, hm⟩ := exec_move ((blockStep_exec (s := { s with inputs := ins }) hp hd).symm.trans h)
      obtain rfl : p = q := Option.some.inj (hp.symm.trans hq)
      have hcheck : check i p.operand { s with inputs := ins } = check i p.operand s := check_congr rfl rfl rfl
      cases hm with
      | abort e he =>
        refine .aborted p e ins hp fun j hj => ?_
        obtain rfl : i = j := Decoded.instr.inj (hd.symm.trans hj)
        rw [← hcheck, he]
        exact Option.some_ne_none e
      | wait hc hlen => exact .waits p i ins hp hd hlen
      | loop hc hi => exact .quiet ins s.resp
      | commit u c hc hw => exact .committed p i u c ins ⟨hin, p, hp, hd⟩ hp hd (hcheck ▸ hc) hw

/-- The move of a bus access of the host. -/
theorem access_move {s : State} {a : Access} {rest : List Input} (hin : s.inputs = .access a :: rest) :
    s.StepMove (State.busAccess { s with inputs := rest } a) := by
  obtain ⟨r, hr⟩ | ⟨v, rfl, hr⟩ | ⟨v, rfl, hr⟩ := busAccess_effect { s with inputs := rest } a
  · rw [hr]
    exact .quiet rest r
  · rw [hr]
    have hw : WritesNow s .cmd v := ⟨rest, hin⟩
    cases hb : s.status.busy with
    | true =>
      rw [issue_busy (by exact hb)]
      exact .dropped v rest _ hw hb
    | false =>
      obtain ⟨e, he, hi⟩ | ⟨i, hd, hc, hi⟩ := issue_idle_cases (s := { s with inputs := rest }) v hb
      · rw [hi]
        exact .rejected v e rest _ hw hb he
      · rw [hi]
        exact .accepted v i rest _ hw hb hd ((check_congr rfl rfl rfl).trans hc)
  · rw [hr]
    exact .operand v rest _ ⟨rest, hin⟩

/-- Every step that goes on is one of the moves. -/
theorem step_move {s t : State} (h : step s = .next t) : s.StepMove t := by
  rcases step_cases s with ⟨hin, hs⟩ | ⟨rest, hin, hs⟩ | ⟨a, rest, hin, hs⟩ | ⟨rest, hin, hs⟩ | ⟨w, rest, hin, hs⟩ |
    ⟨rest, hin, hs⟩
  · exact blockStep_move (ins := s.inputs) (.inl hin) (hs.symm.trans h)
  · exact blockStep_move (.inr ⟨rest, hin⟩) (hs.symm.trans h)
  · cases hs.symm.trans h
    exact access_move hin
  · rw [pollRound_eq] at hs
    cases hs.symm.trans h
    exact .quiet _ _
  · cases hs.symm.trans h
    exact .offered w rest hin
  · cases hs.symm.trans h
    exact .reset rest ⟨rest, hin⟩

end Sys2Proof.Machine
end

section
/-! PROOFS. The invariant of the block (10_state.md R41, R44): the reset state has it and every move of a step keeps it. -/

namespace Sys2Proof.Machine

open Sys2Proof Sys2Proof.Claims

/-! ### The invariant reads only the latch and the generator -/

/-- The generator's part of the invariant: READY says whether the registers and the bank hold a GeneratorState. -/
structure State.BoundInv (s : State) : Prop where
  generator : s.status.ready = true → s.GeneratorInv
  blank : s.status.ready = false → s.BlankInv

theorem State.Inv.bound {s : State} (hs : s.Inv) : s.BoundInv := ⟨hs.generator, hs.blank⟩

/-- The generator's part reads READY, MAX, BITS, POSITION and the bank, and nothing else. -/
theorem State.BoundInv.congr {s t : State} (hs : s.BoundInv) (hready : t.status.ready = s.status.ready)
    (hmax : t.max = s.max) (hbits : t.bits = s.bits) (hposition : t.position = s.position) (hbank : t.bank = s.bank) :
    t.BoundInv := by
  obtain ⟨hgen, hblank⟩ := hs
  rw [← hready] at hgen hblank
  have hwidth : t.width = s.width := congrArg BitVec.toNat hbits
  refine ⟨fun h => ?_, fun h => ?_⟩
  · obtain ⟨hmin, hle, heq, hpos, hstages⟩ := hgen h
    exact ⟨hwidth ▸ hmin, hwidth ▸ hle, by rw [hwidth, hmax, heq], by rw [hposition, hmax]; exact hpos,
      fun k => by rw [hwidth, hbank]; exact hstages k⟩
  · obtain ⟨hm, hp, hb⟩ := hblank h
    exact ⟨hmax.trans hm, hposition.trans hp, hbits.trans hb⟩

/-- The latch's part reads BUSY, the latch, the draws held and what the checks read. -/
theorem State.LatchInv.congr {s t : State} (hs : s.LatchInv) (hbusy : t.status.busy = s.status.busy)
    (hpend : t.pend = s.pend) (htaken : t.taken = s.taken) (hready : t.status.ready = s.status.ready)
    (hmax : t.max = s.max) (hbits : t.bits = s.bits) : t.LatchInv := by
  obtain ⟨hiff, haccepted, hidle⟩ := hs
  refine ⟨by rw [hbusy, hpend, hiff], fun p hp => ?_, fun hp => htaken.trans (hidle (hpend ▸ hp))⟩
  obtain ⟨i, hd, hc, ht⟩ := haccepted p (hpend ▸ hp)
  exact ⟨i, hd, (check_congr hready hbits hmax).trans hc, htaken ▸ ht⟩

/-! ### Reset -/

/-- Settles O53: the reset state is idle, not READY, and every bound register is 0. -/
theorem invariantHoldsAtReset : Obligations.InvariantHoldsAtReset where
  latch := ⟨rfl, nofun, fun _ => rfl⟩
  generator := nofun
  blank _ := ⟨rfl, rfl, rfl⟩

/-! ### The commit -/

/-- Advancing POSITION stays in `[0, MAX]` (45_permutation.md R278). -/
theorem advance_position_le (s : State) : s.advance.position ≤ s.max := by
  rw [State.advance_position]
  split
  · bv_omega
  · exact Nat.zero_le _

theorem State.BoundInv.advance {s : State} (hs : s.BoundInv) : s.advance.BoundInv where
  generator h := { hs.generator h with position_le := advance_position_le s }
  blank h := by
    obtain ⟨hmax, hposition, hbits⟩ := hs.blank h
    exact ⟨hmax, by rw [State.advance_position, hmax, if_neg]; exact Nat.not_lt_zero _, hbits⟩

/-- The results of a command, the draws of an INIT whatever they are, keep the generator's part. -/
theorem State.Writes.boundInv {s u : State} {x c : Word} {i : Instr} (hw : s.Writes x i u c) (hs : s.BoundInv) :
    u.BoundInv := by
  cases hw with
  | next r c => exact hs.advance.congr rfl rfl rfl rfl rfl
  | init h => exact ⟨fun _ => install_generatorInv _ _ _, nofun⟩
  | _ => exact hs.congr rfl rfl rfl rfl rfl

theorem drawsNeeded_of_writesResult {i : Instr} {x : Word} (hi : writesResult i = true) : drawsNeeded i x = 0 := by
  unfold drawsNeeded
  split
  · cases hi
  · cases hi
  · rfl

/-- At its commit a command holds no draws: either it never needs any, or it has used those it took. -/
theorem State.Writes.taken_eq_nil {s u : State} {x c : Word} {i : Instr} (hw : s.Writes x i u c)
    (hs : s.taken = [] ∨ s.taken.length < drawsNeeded i x) : u.taken = [] := by
  cases hw with
  | init h => rfl
  | genmat a b h => rfl
  | result i r c hr hn =>
    rw [drawsNeeded_of_writesResult hr] at hs
    exact hs.resolve_right (Nat.not_lt_zero _)
  | _ => exact hs.resolve_right (Nat.not_lt_zero _)

/-! ### The step -/

/-- A latched command passes its checks and holds fewer draws than it needs. -/
theorem State.LatchInv.of_pend {s : State} {p : Pending} {i : Instr} (hs : s.LatchInv) (hp : s.pend = some p)
    (hd : decodeWord p.word = .instr i) :
    check i p.operand s = none ∧ (s.taken = [] ∨ s.taken.length < drawsNeeded i p.operand) := by
  obtain ⟨j, hj, hc, ht⟩ := hs.accepted p hp
  obtain rfl : i = j := Decoded.instr.inj (hd.symm.trans hj)
  exact ⟨hc, ht⟩

/-- No latched word is one that no acceptance leaves. -/
theorem State.LatchInv.not_aborted {s : State} {p : Pending} (hs : s.LatchInv) (hp : s.pend = some p) :
    ¬ ∀ i, decodeWord p.word = .instr i → check i p.operand s ≠ none := by
  obtain ⟨i, hd, hc, -⟩ := hs.accepted p hp
  exact fun hbad => hbad i hd hc

/-- The latch of an idle block is empty. -/
theorem State.LatchInv.pend_eq_none {s : State} (hs : s.LatchInv) (hb : s.status.busy = false) : s.pend = none := by
  refine Option.not_isSome_iff_eq_none.mp ?_
  rw [← hs.busy_iff, hb]
  exact Bool.false_ne_true

theorem State.StepMove.latchInv {s t : State} (hm : s.StepMove t) (hs : s.LatchInv) : t.LatchInv := by
  cases hm with
  | reset ins h => exact invariantHoldsAtReset.latch.congr rfl rfl rfl rfl rfl rfl
  | aborted p e ins hp hbad => exact absurd hbad (hs.not_aborted hp)
  | waits p i ins hp hd hlen =>
    refine ⟨hs.busy_iff, fun q hq => ?_, fun hnone => absurd (hnone.symm.trans hp) nofun⟩
    obtain rfl : p = q := Option.some.inj (hp.symm.trans hq)
    exact ⟨i, hd, (check_congr rfl rfl rfl).trans (hs.of_pend hp hd).1, .inr (List.length_append ▸ hlen)⟩
  | accepted v i ins rs h hb hd hc =>
    refine ⟨rfl, fun q hq => ?_, nofun⟩
    obtain rfl := Option.some.inj hq
    exact ⟨i, hd, (check_congr rfl rfl rfl).trans hc, .inl (hs.idle (hs.pend_eq_none hb))⟩
  | committed p i u c ins hx hp hd hc hw =>
    exact ⟨rfl, nofun, fun _ => hw.taken_eq_nil (hs.of_pend hp hd).2⟩
  | _ => exact hs.congr rfl rfl rfl rfl rfl rfl

theorem State.StepMove.boundInv {s t : State} (hm : s.StepMove t) (hs : s.BoundInv) : t.BoundInv := by
  cases hm with
  | committed p i u c ins hx hp hd hc hw =>
    exact (hw.boundInv (hs.congr rfl rfl rfl rfl rfl)).congr rfl rfl rfl rfl rfl
  | reset ins h => exact invariantHoldsAtReset.bound.congr rfl rfl rfl rfl rfl
  | _ => exact hs.congr rfl rfl rfl rfl rfl

/-- Settles O54, by the moves of a step: each keeps the latch's part and the generator's part of the invariant. -/
theorem everyStepKeepsTheInvariant : Obligations.EveryStepKeepsTheInvariant := by
  intro s t hs h
  have hlatch := (step_move h).latchInv hs.latch
  have hbound := (step_move h).boundInv hs.bound
  exact ⟨hlatch, hbound.generator, hbound.blank⟩

end Sys2Proof.Machine
end

section
/-! PROOFS. Which commits, host writes and events write each register and store (10_state.md R47, R48). -/

namespace Sys2Proof.Machine

open Sys2Proof Sys2Proof.Claims

/-! ### What the results of a command leave unchanged -/

section Writes

variable {s u : State} {x c : Word} {i : Instr}

theorem State.Writes.operand_eq (hw : s.Writes x i u c) : u.operand = s.operand := by
  cases hw <;> rfl

theorem State.Writes.writesResult_of_ne (hw : s.Writes x i u c) (hne : u.result ≠ s.result) : writesResult i = true := by
  cases hw with
  | result i r c hr hn => exact hr
  | next r c => rfl
  | _ => exact absurd rfl hne

theorem State.Writes.generator_eq (hw : s.Writes x i u c) (hi : i ≠ .init) :
    u.max = s.max ∧ u.bits = s.bits ∧ u.bank = s.bank := by
  cases hw with
  | init h => exact absurd rfl hi
  | _ => exact ⟨rfl, rfl, rfl⟩

theorem State.Writes.init_or_next_of_position_ne (hw : s.Writes x i u c) (hne : u.position ≠ s.position) :
    i = .init ∨ i = .next := by
  cases hw with
  | init h => exact .inl rfl
  | next r c => exact .inr rfl
  | _ => exact absurd rfl hne

theorem State.Writes.writesScratch_of_ne (hw : s.Writes x i u c) (hne : u.scr ≠ s.scr) : writesScratch i = true := by
  cases hw with
  | scrWr k row => rfl
  | matmul m => rfl
  | genmat a b h => rfl
  | _ => exact absurd rfl hne

/-- MATMUL leaves SA and SB alone. -/
theorem State.Writes.genmat_or_scrWr_of_ne (hw : s.Writes x i u c)
    (hne : u.scr[0] ≠ s.scr[0] ∨ u.scr[1] ≠ s.scr[1]) : i = .genmat ∨ ∃ k row, i = .scrWr k row := by
  cases hw with
  | scrWr k row => exact .inr ⟨k, row, rfl⟩
  | matmul m => simp at hne
  | genmat a b h => exact .inl rfl
  | _ => exact absurd hne (not_or.mpr ⟨not_not.mpr rfl, not_not.mpr rfl⟩)

/-- GENMAT leaves SC alone. -/
theorem State.Writes.matmul_or_scrWr_of_ne (hw : s.Writes x i u c) (hne : u.scr[2] ≠ s.scr[2]) :
    i = .matmul ∨ ∃ k row, i = .scrWr k row := by
  cases hw with
  | scrWr k row => exact .inr ⟨k, row, rfl⟩
  | matmul m => exact .inl rfl
  | genmat a b h => simp at hne
  | _ => exact absurd rfl hne

theorem State.Writes.init_of_ready_ne (hw : s.Writes x i u c) (hne : u.status.ready ≠ s.status.ready) :
    u.status.ready = true ∧ i = .init := by
  cases hw with
  | init h => exact ⟨rfl, rfl⟩
  | _ => exact absurd rfl hne

theorem State.Writes.clrerr_of_ovr_ne (hw : s.Writes x i u c) (hne : u.status.ovr ≠ s.status.ovr) :
    u.status.ovr = false ∧ i = .clrerr := by
  cases hw with
  | clrerr => exact ⟨rfl, rfl⟩
  | _ => exact absurd rfl hne

end Writes

/-! ### Which moves write a register or store -/

/-- The registers and stores that only a commit writes are the same. -/
structure State.SameResults (s t : State) : Prop where
  result : t.result = s.result
  max : t.max = s.max
  bits : t.bits = s.bits
  bank : t.bank = s.bank
  position : t.position = s.position
  count : t.count = s.count
  scr : t.scr = s.scr
  ready : t.status.ready = s.status.ready

section StepMove

variable {s t : State}

/-- A step that is no reset commits the latched command or leaves the results alone. -/
theorem State.StepMove.commit_or_same (hm : s.StepMove t) (hs : s.LatchInv) (hr : ¬ ResetsNow s) :
    (∃ i x ins u c, ExecutesNow s i ∧ State.Writes { s with inputs := ins } x i u c ∧ t = u.commit c) ∨
      s.SameResults t := by
  cases hm with
  | committed p i u c ins hx hp hd hc hw => exact .inl ⟨i, _, ins, u, c, hx, hw, rfl⟩
  | aborted p e ins hp hbad => exact absurd hbad (hs.not_aborted hp)
  | reset ins h => exact absurd h hr
  | _ => exact .inr ⟨rfl, rfl, rfl, rfl, rfl, rfl, rfl, rfl⟩

/-- R47, the rows of RESULT, MAX, BITS, the bank, POSITION, COUNT, the scratch banks and READY: a step that changes one of
them is a commit of a command listed for it. -/
theorem State.StepMove.executes_of_results_ne (hm : s.StepMove t) (hs : s.LatchInv) (hr : ¬ ResetsNow s) :
    (t.result ≠ s.result → ∃ i, ExecutesNow s i ∧ writesResult i = true) ∧
    (t.max ≠ s.max ∨ t.bits ≠ s.bits ∨ t.bank ≠ s.bank → ExecutesNow s .init) ∧
    (t.position ≠ s.position → ExecutesNow s .init ∨ ExecutesNow s .next) ∧
    (t.count ≠ s.count → ∃ i, ExecutesNow s i) ∧
    (t.scr ≠ s.scr → ∃ i, ExecutesNow s i ∧ writesScratch i = true) ∧
    (t.scr[0] ≠ s.scr[0] ∨ t.scr[1] ≠ s.scr[1] → ExecutesNow s .genmat ∨ ∃ k row, ExecutesNow s (.scrWr k row)) ∧
    (t.scr[2] ≠ s.scr[2] → ExecutesNow s .matmul ∨ ∃ k row, ExecutesNow s (.scrWr k row)) ∧
    (t.status.ready ≠ s.status.ready → t.status.ready = true ∧ ExecutesNow s .init) := by
  obtain ⟨i, x, ins, u, c, hx, hw, rfl⟩ | h := hm.commit_or_same hs hr
  · have hexec {j : Instr} (e : i = j) : ExecutesNow s j := e ▸ hx
    refine ⟨fun h => ⟨i, hx, hw.writesResult_of_ne h⟩, fun h => ?_, fun h => ?_, fun _ => ⟨i, hx⟩,
      fun h => ⟨i, hx, hw.writesScratch_of_ne h⟩, fun h => ?_, fun h => ?_, fun h => ?_⟩
    · by_contra hi
      obtain ⟨hmax, hbits, hbank⟩ := hw.generator_eq fun e => hi (hexec e)
      exact h.elim (· hmax) (·.elim (· hbits) (· hbank))
    · exact (hw.init_or_next_of_position_ne h).imp hexec hexec
    · exact (hw.genmat_or_scrWr_of_ne h).imp hexec fun ⟨k, row, e⟩ => ⟨k, row, hexec e⟩
    · exact (hw.matmul_or_scrWr_of_ne h).imp hexec fun ⟨k, row, e⟩ => ⟨k, row, hexec e⟩
    · exact (hw.init_of_ready_ne h).imp_right hexec
  · simp [h.result, h.max, h.bits, h.bank, h.position, h.count, h.scr, h.ready]

theorem State.StepMove.writes_of_operand_ne (hm : s.StepMove t) (hr : ¬ ResetsNow s) (hne : t.operand ≠ s.operand) :
    ∃ v, WritesNow s .operand v ∧ t.operand = v := by
  cases hm with
  | operand v ins rs h => exact ⟨v, h, rfl⟩
  | committed p i u c ins hx hp hd hc hw => exact absurd hw.operand_eq hne
  | reset ins h => exact absurd h hr
  | _ => exact absurd rfl hne

theorem State.StepMove.of_ovr_ne (hm : s.StepMove t) (hr : ¬ ResetsNow s) (hne : t.status.ovr ≠ s.status.ovr) :
    (t.status.ovr = true ∧ s.status.busy = true ∧ ∃ v, WritesNow s .cmd v) ∨
    (t.status.ovr = false ∧ ExecutesNow s .clrerr) := by
  cases hm with
  | dropped v ins rs h hb => exact .inl ⟨rfl, hb, v, h⟩
  | committed p i u c ins hx hp hd hc hw =>
    obtain ⟨hovr, rfl⟩ := hw.clrerr_of_ovr_ne hne
    exact .inr ⟨hovr, hx⟩
  | reset ins h => exact absurd h hr
  | _ => exact absurd rfl hne

theorem State.StepMove.of_busy_ne (hm : s.StepMove t) (hs : s.LatchInv) (hr : ¬ ResetsNow s)
    (hne : t.status.busy ≠ s.status.busy) :
    (t.status.busy = true ∧ ∃ v, WritesNow s .cmd v ∧ t.pend = some ⟨v, s.operand⟩) ∨
    (t.status.busy = false ∧ t.pend = none ∧ ∃ i, ExecutesNow s i) := by
  cases hm with
  | accepted v i ins rs h hb hd hc => exact .inl ⟨rfl, v, h, rfl⟩
  | committed p i u c ins hx hp hd hc hw => exact .inr ⟨rfl, rfl, i, hx⟩
  | aborted p e ins hp hbad => exact absurd hbad (hs.not_aborted hp)
  | reset ins h => exact absurd h hr
  | _ => exact absurd rfl hne

theorem State.StepMove.of_err_ne (hm : s.StepMove t) (hs : s.LatchInv) (hr : ¬ ResetsNow s)
    (hne : t.status.err ≠ s.status.err) :
    (s.status.busy = false ∧ t.status.err ≠ .ok ∧ ∃ v, WritesNow s .cmd v) ∨
    (t.status.err = .ok ∧ ∃ i, ExecutesNow s i) := by
  cases hm with
  | rejected v e ins rs h hb he => exact .inl ⟨hb, he, v, h⟩
  | committed p i u c ins hx hp hd hc hw => exact .inr ⟨rfl, i, hx⟩
  | aborted p e ins hp hbad => exact absurd hbad (hs.not_aborted hp)
  | reset ins h => exact absurd h hr
  | _ => exact absurd rfl hne

end StepMove

/-! ### R48 -/

section Exec

variable {s t : State}

theorem exec_generator_eq {i : Instr} (hi : i ≠ .init) (h : exec i s = .next t) :
    t.max = s.max ∧ t.bits = s.bits ∧ t.bank = s.bank := by
  obtain ⟨p, -, hm⟩ := exec_move h
  cases hm with
  | commit u c hc hw => exact hw.generator_eq hi
  | _ => exact ⟨rfl, rfl, rfl⟩

theorem exec_next_frame (h : exec .next s = .next t) : t.operand = s.operand ∧ t.scr = s.scr ∧ t.entropy = s.entropy ∧
    t.status.ready = s.status.ready ∧ t.status.ovr = s.status.ovr := by
  obtain ⟨p, -, hm⟩ := exec_move h
  cases hm with
  | abort e he => exact ⟨rfl, rfl, rfl, rfl, rfl⟩
  | wait hc hlen => exact absurd hlen (Nat.not_lt_zero _)
  | loop hc hi => exact ⟨rfl, rfl, rfl, rfl, rfl⟩
  | commit u c hc hw =>
    cases hw with
    | result i r c hr hn => exact absurd rfl hn
    | next r c => exact ⟨rfl, rfl, rfl, rfl, rfl⟩

theorem exec_undo_frame (h : exec .undo s = .next t) : t.position = s.position ∧ t.operand = s.operand ∧
    t.scr = s.scr ∧ t.entropy = s.entropy ∧ t.status.ready = s.status.ready ∧ t.status.ovr = s.status.ovr := by
  obtain ⟨p, -, hm⟩ := exec_move h
  cases hm with
  | abort e he => exact ⟨rfl, rfl, rfl, rfl, rfl, rfl⟩
  | wait hc hlen => exact absurd hlen (Nat.not_lt_zero _)
  | loop hc hi => exact ⟨rfl, rfl, rfl, rfl, rfl, rfl⟩
  | commit u c hc hw =>
    cases hw with
    | result i r c hr hn => exact ⟨rfl, rfl, rfl, rfl, rfl, rfl⟩

end Exec

/-- Settles O57, by the moves of a step: for each register and store, the moves that can change it. -/
theorem writeTable : Obligations.WriteTable := by
  refine ⟨fun s t hs h hr => ?_, fun i s t hi h => exec_generator_eq hi h, fun s t h => exec_next_frame h,
    fun s t h => exec_undo_frame h⟩
  have hm := step_move h
  obtain ⟨hresult, hgenerator, hposition, hcount, hscr, hscr01, hscr2, hready⟩ := hm.executes_of_results_ne hs hr
  refine ⟨hm.writes_of_operand_ne hr, hresult, hgenerator, hposition, hcount, hscr, hscr01, hscr2, hready,
    fun ⟨ht, hs0⟩ => ?_, fun ⟨ht, hs1⟩ => ?_, fun ⟨ht, hs0⟩ => ?_, fun ⟨ht, hs1⟩ => ?_, hm.of_err_ne hs hr⟩
  · simpa [ht] using hm.of_ovr_ne hr (by simp [ht, hs0])
  · simpa [ht] using hm.of_ovr_ne hr (by simp [ht, hs1])
  · simpa [ht] using hm.of_busy_ne hs hr (by simp [ht, hs0])
  · simpa [ht] using hm.of_busy_ne hs hr (by simp [ht, hs1])

end Sys2Proof.Machine
end

section
/-! PROOFS. The values after reset (10_state.md R49) and the layout of STATUS (R33). -/

namespace Sys2Proof.Machine

open Sys2Proof Sys2Proof.Claims

/-! ### Reset -/

theorem reset_scr_eq_zero (b : Fin 3) (j : Fin 64) : State.reset.scr[b][j] = 0 := by
  simp [State.reset]

/-- Settles O52: every part but the scratch rows is the literal value of the reset state, in which a reset event leaves all
but the words on offer and the events to come. -/
theorem resetValues : Obligations.ResetValues := by
  refine ⟨⟨rfl, rfl, rfl, rfl, rfl, rfl, rfl, rfl, reset_scr_eq_zero, rfl, rfl, rfl, rfl⟩,
    fun s t rest hin h => ?_⟩
  cases (step_rst hin).symm.trans h
  exact ⟨⟨rfl, (rfl : State.reset.status.toWord = 0), rfl, rfl, rfl, rfl, rfl, rfl, reset_scr_eq_zero, rfl, rfl, rfl,
    rfl⟩, rfl, rfl⟩

/-! ### STATUS -/

/-- Each bit of the STATUS word (R33). -/
theorem bit_status_toWord (st : Status) (j : Nat) :
    bit st.toWord j =
      if j = 0 then st.busy else if j = 1 then st.ready else if j = 2 then st.ovr
      else if 8 ≤ j ∧ j < 16 then st.err.code.getLsbD (j - 8) else false := by
  unfold Status.toWord
  simp only [bit_or, BitVec.getLsbD_setWidth, BitVec.getLsbD_shiftLeft, BitVec.getLsbD_ofBool]
  by_cases h3 : j < 3
  · interval_cases j <;> simp
  · have hflags : j ≠ 0 ∧ j ≠ 1 ∧ j ≠ 2 ∧ j - 1 ≠ 0 ∧ j - 2 ≠ 0 := by omega
    rcases (by omega : j < 8 ∨ (8 ≤ j ∧ j < 16) ∨ 16 ≤ j) with h8 | h | h16
    · simp [hflags, h8, Nat.not_le.mpr h8]
    · simp [hflags, h, show j < 64 by omega, show j - 8 < 64 by omega]
    · have hcode : st.err.code.getLsbD (j - 8) = false := BitVec.getLsbD_of_ge _ _ (by omega)
      simp [hflags, hcode, Nat.not_lt.mpr h16]

theorem code_le (e : ErrCode) : e.code ≤ 0x06 := by
  cases e <;> decide

/-- Settles O6: ERR is the field of the bits 8 to 15, which `bit_status_toWord` names. -/
theorem statusWordLayout : Obligations.StatusWordLayout := by
  intro st
  refine ⟨bit_status_toWord st, BitVec.eq_of_getLsbD_eq fun j hj => ?_, code_le st.err,
    ⟨rfl, rfl, rfl, rfl, rfl, rfl, rfl⟩⟩
  have h := bit_status_toWord st (8 + j)
  have hflags : 8 + j ≠ 0 ∧ 8 + j ≠ 1 ∧ 8 + j ≠ 2 := by omega
  simpa [BitVec.getLsbD_extractLsb', hj, hflags, show 8 + j < 16 by omega] using h

end Sys2Proof.Machine
end

section
/-! PROOFS. The register window: what a supported access does at each offset and what an unsupported one gets
(20_memory.md R73, R76); and the command words written out in 95_test_vectors.md. -/

namespace Sys2Proof.Machine

open Sys2Proof Sys2Proof.Claims

/-! ### The register window -/

/-- The host can write CMD and OPERAND and no other register (20_memory.md R76). -/
theorem writeReg_readOnly (s : State) (v : Word) {r : Reg} (hcmd : r ≠ .cmd) (hoperand : r ≠ .operand) :
    s.writeReg v r = s := by
  cases r with
  | cmd => exact absurd rfl hcmd
  | operand => exact absurd rfl hoperand
  | _ => rfl

theorem busAccess_write_readOnly (s : State) (v : Word) {r : Reg} (hcmd : r ≠ .cmd) (hoperand : r ≠ .operand) :
    s.busAccess (.write r.offset .w8 v) = { s with resp := some .ack } := by
  rw [busAccess_write, writeReg_readOnly s v hcmd hoperand]

theorem offset_le (r : Reg) : r.offset ≤ 0x40 := by
  cases r <;> decide

/-- No register lies at the offsets from 0x48 on. -/
theorem ofOffset_reserved {off : BitVec 8} (h : 0x48 ≤ off) : Reg.ofOffset off = none := by
  cases hr : Reg.ofOffset off with
  | none => rfl
  | some r =>
    have hle := offset_le r
    rw [← offset_of_ofOffset hr] at hle
    exact absurd (BitVec.le_trans h hle) (by decide)

theorem accessOk_iff {off : BitVec 8} {width : Width} :
    accessOk off width = true ↔ width = .w8 ∧ off.extractLsb' 0 3 = 0 := by
  simp [accessOk]

section

variable {off : BitVec 8} {width : Width}

theorem busAccess_read_reserved (s : State) (h : 0x48 ≤ off) (halign : off.extractLsb' 0 3 = 0) :
    s.busAccess (.read off .w8) = { s with resp := some (.data 0) } := by
  simp [State.busAccess, accessOk_iff.mpr ⟨rfl, halign⟩, ofOffset_reserved h]

theorem busAccess_write_reserved (s : State) (v : Word) (h : 0x48 ≤ off) (halign : off.extractLsb' 0 3 = 0) :
    s.busAccess (.write off .w8 v) = { s with resp := some .ack } := by
  simp [State.busAccess, accessOk_iff.mpr ⟨rfl, halign⟩, ofOffset_reserved h]

theorem accessOk_unsupported (h : width ≠ .w8 ∨ off.extractLsb' 0 3 ≠ 0) : ¬ accessOk off width = true := by
  rw [accessOk_iff]
  exact not_and_or.mpr h

theorem busAccess_read_unsupported (s : State) (h : width ≠ .w8 ∨ off.extractLsb' 0 3 ≠ 0) :
    s.busAccess (.read off width) = { s with resp := some .error } :=
  if_neg (accessOk_unsupported h)

theorem busAccess_write_unsupported (s : State) (v : Word) (h : width ≠ .w8 ∨ off.extractLsb' 0 3 ≠ 0) :
    s.busAccess (.write off width v) = { s with resp := some .error } :=
  if_neg (accessOk_unsupported h)

end

/-- The offsets that ignore a write. -/
theorem readOnly_offsets : ([0x00, 0x10, 0x20, 0x28, 0x30, 0x38, 0x40] : List (BitVec 8)) =
    [Reg.id, .status, .result, .max, .position, .bits, .count].map Reg.offset := rfl

/-- Settles O5: register by register, then the reserved offsets and the unsupported accesses. -/
theorem registerWindowAccesses : Obligations.RegisterWindowAccesses := by
  refine ⟨fun s => ⟨busAccess_read s .id, busAccess_read s .cmd, busAccess_read s .status, busAccess_read s .operand,
    busAccess_read s .result, busAccess_read s .max, busAccess_read s .position, busAccess_read s .bits,
    busAccess_read s .count, busAccess_write s .cmd, busAccess_write s .operand, ?_,
    fun off h halign => ⟨busAccess_read_reserved s h halign, fun v => busAccess_write_reserved s v h halign⟩⟩,
    fun s off width h => ⟨busAccess_read_unsupported s h, fun v => busAccess_write_unsupported s v h⟩⟩
  rw [readOnly_offsets, List.forall_mem_map]
  intro r hr v
  refine busAccess_write_readOnly s v ?_ ?_ <;> rintro rfl <;> exact absurd hr (by decide)

/-! ### The words of 95_test_vectors.md -/

/-- Settles O1: fourteen fixed words, decoded. -/
theorem writtenOutWordsDecode : Obligations.WrittenOutWordsDecode := by
  unfold Obligations.WrittenOutWordsDecode
  decide

end Sys2Proof.Machine
end

section
/-! PROOFS. The passes as permutations of the `n`-bit words: each sub-step of a stage and of the mix has an inverse there
(43_stage_bank.md R203 to R209, 44_mix.md R246 to R249), so a rejection loop ends (45_permutation.md R283). -/

namespace Sys2Proof.Machine

open Sys2Proof Sys2Proof.Claims

/-! ### Permutations of the `n`-bit words -/

/-- The values of `[0, 2^n)`. -/
def nBitWords (n : Nat) : Set Word := {z | z.toNat < 2 ^ n}

theorem mem_nBitWords {n : Nat} {z : Word} : z ∈ nBitWords n ↔ z.toNat < 2 ^ n := Iff.rfl

theorem and_mask_mem {n : Nat} (hn : n ≤ 64) (z : Word) : z &&& mask n ∈ nBitWords n := and_mask_lt hn z

theorem and_mask_of_mem {n : Nat} (hn : n ≤ 64) {z : Word} (hz : z ∈ nBitWords n) : z &&& mask n = z :=
  (and_mask_eq_iff hn z).mpr hz

/-- `f` and `g` undo each other on the `n`-bit words. -/
structure MutuallyInverse (n : Nat) (f g : Word → Word) : Prop where
  mapsTo : Set.MapsTo f (nBitWords n) (nBitWords n)
  mapsTo_inv : Set.MapsTo g (nBitWords n) (nBitWords n)
  left_inv : Set.LeftInvOn g f (nBitWords n)
  right_inv : Set.LeftInvOn f g (nBitWords n)

section MutuallyInverse

variable {n : Nat} {f g f' g' : Word → Word}

theorem MutuallyInverse.symm (h : MutuallyInverse n f g) : MutuallyInverse n g f :=
  ⟨h.mapsTo_inv, h.mapsTo, h.right_inv, h.left_inv⟩

theorem MutuallyInverse.comp (h : MutuallyInverse n f g) (h' : MutuallyInverse n f' g') :
    MutuallyInverse n (f' ∘ f) (g ∘ g') where
  mapsTo := h'.mapsTo.comp h.mapsTo
  mapsTo_inv := h.mapsTo_inv.comp h'.mapsTo_inv
  left_inv := h.left_inv.comp h'.left_inv h.mapsTo
  right_inv := h'.right_inv.comp h.right_inv h'.mapsTo_inv

/-- Masking the argument first changes nothing on the `n`-bit words. -/
theorem MutuallyInverse.masked (hn : n ≤ 64) (h : MutuallyInverse n f g) :
    MutuallyInverse n (fun z => f (z &&& mask n)) (fun z => g (z &&& mask n)) where
  mapsTo z _ := h.mapsTo (and_mask_mem hn z)
  mapsTo_inv z _ := h.mapsTo_inv (and_mask_mem hn z)
  left_inv z hz := by
    simp only [and_mask_of_mem hn hz, and_mask_of_mem hn (h.mapsTo hz), h.left_inv hz]
  right_inv z hz := by
    simp only [and_mask_of_mem hn hz, and_mask_of_mem hn (h.mapsTo_inv hz), h.right_inv hz]

/-- A permutation of the `n`-bit words comes back to where it started within `2^n` rounds. -/
theorem MutuallyInverse.exists_iterate_eq (h : MutuallyInverse n f g) {z : Word} (hz : z ∈ nBitWords n) :
    ∃ k, 1 ≤ k ∧ k ≤ 2 ^ n ∧ f^[k] z = z := by
  have hmem (k : Nat) : f^[k] z ∈ nBitWords n := h.mapsTo.iterate k hz
  obtain ⟨i, hi, j, hj, hne, heq⟩ := Finset.exists_ne_map_eq_of_card_lt_of_maps_to
    (s := Finset.range (2 ^ n + 1)) (t := Finset.range (2 ^ n)) (f := fun k => (f^[k] z).toNat) (by simp)
    fun k _ => Finset.mem_range.mpr (hmem k)
  wlog hij : i < j generalizing i j
  · exact this j hj i hi hne.symm heq.symm (by omega)
  have hj' := Finset.mem_range.mp hj
  refine ⟨j - i, by omega, by omega, h.left_inv.injOn.iterate h.mapsTo i (hmem (j - i)) hz ?_⟩
  rw [← Function.iterate_add_apply, Nat.add_sub_cancel' hij.le]
  exact (BitVec.eq_of_toNat_eq heq).symm

/-- A rejection loop over a permutation of the `n`-bit words that starts in range meets a value in range. -/
theorem MutuallyInverse.exists_firstInRange (h : MutuallyInverse n f g) {max z : Word} (hz : z ∈ nBitWords n)
    (hle : z ≤ max) : ∃ v k, FirstInRange f max z v k ∧ k ≤ 2 ^ n := by
  obtain ⟨k, hk, hkn, hkz⟩ := h.exists_iterate_eq hz
  have hex : ∃ k, 1 ≤ k ∧ f^[k] z ≤ max := ⟨k, hk, by rwa [hkz]⟩
  obtain ⟨hfirst, hrange⟩ := Nat.find_spec hex
  exact ⟨_, _, ⟨hfirst, rfl, hrange, fun j hj hlt hj' => Nat.find_min hex hlt ⟨hj, hj'⟩⟩,
    (Nat.find_min' hex ⟨hk, by rwa [hkz]⟩).trans hkn⟩

end MutuallyInverse

/-! ### Masking and the word arithmetic -/

theorem and_mask_add {n : Nat} (hn : n ≤ 64) (a b : Word) : ((a &&& mask n) + b) &&& mask n = (a + b) &&& mask n := by
  have hdvd : 2 ^ n ∣ 2 ^ 64 := pow_dvd_pow 2 hn
  refine BitVec.eq_of_toNat_eq ?_
  rw [toNat_and_mask hn, toNat_and_mask hn, BitVec.toNat_add, BitVec.toNat_add, toNat_and_mask hn,
    Nat.mod_mod_of_dvd _ hdvd, Nat.mod_mod_of_dvd _ hdvd, Nat.mod_add_mod]

theorem and_mask_mul {n : Nat} (hn : n ≤ 64) (a b : Word) : ((a &&& mask n) * b) &&& mask n = (a * b) &&& mask n := by
  have hdvd : 2 ^ n ∣ 2 ^ 64 := pow_dvd_pow 2 hn
  refine BitVec.eq_of_toNat_eq ?_
  rw [toNat_and_mask hn, toNat_and_mask hn, BitVec.toNat_mul, BitVec.toNat_mul, toNat_and_mask hn,
    Nat.mod_mod_of_dvd _ hdvd, Nat.mod_mod_of_dvd _ hdvd, Nat.mod_mul_mod]

/-! ### The sub-steps of a stage -/

theorem unweyl_weyl {n : Nat} (hn : n ≤ 64) (z : Word) : unweyl n (weyl n z) = z &&& mask n := by
  rw [unweyl, weyl, sub_eq_add_neg, and_mask_add hn, add_neg_cancel_right]

theorem weyl_unweyl {n : Nat} (hn : n ≤ 64) (z : Word) : weyl n (unweyl n z) = z &&& mask n := by
  rw [unweyl, weyl, and_mask_add hn, sub_add_cancel]

/-- The Weyl step and its inverse (43_stage_bank.md R203). -/
theorem weyl_mutuallyInverse {n : Nat} (hn : n ≤ 64) : MutuallyInverse n (weyl n) (unweyl n) where
  mapsTo z _ := and_mask_mem hn (z + phi)
  mapsTo_inv z _ := and_mask_mem hn (z - phi)
  left_inv z hz := (unweyl_weyl hn z).trans (and_mask_of_mem hn hz)
  right_inv z hz := (weyl_unweyl hn z).trans (and_mask_of_mem hn hz)

theorem lehmer_lehmer {n : Nat} (hn : n ≤ 64) (z : Word) {m m' : Word} (h : m * m' = 1) :
    lehmer n (lehmer n z m) m' = z &&& mask n := by
  rw [lehmer, lehmer, and_mask_mul hn, mul_assoc, h, mul_one]

/-- Multiplying by a multiplier and by its inverse (43_stage_bank.md R206). -/
theorem lehmer_mutuallyInverse {n : Nat} (hn : n ≤ 64) {m m' : Word} (h : m * m' = 1) :
    MutuallyInverse n (lehmer n · m) (lehmer n · m') where
  mapsTo z _ := and_mask_mem hn (z * m)
  mapsTo_inv z _ := and_mask_mem hn (z * m')
  left_inv z hz := (lehmer_lehmer hn z h).trans (and_mask_of_mem hn hz)
  right_inv z hz := (lehmer_lehmer hn z ((mul_comm m' m).trans h)).trans (and_mask_of_mem hn hz)

/-- The bits of a word below `n`, over GF(2). -/
def rowEntries (n : Nat) (z : Word) : Fin n → ZMod 2 := fun j => gf2 (bit z j)

theorem bit_of_mem {n j : Nat} {z : Word} (hz : z ∈ nBitWords n) (hj : n ≤ j) : bit z j = false :=
  Nat.testBit_lt_two_pow (Nat.lt_of_lt_of_le hz (Nat.pow_le_pow_right (by omega) hj))

/-- An `n`-bit word is known by its bits below `n`. -/
theorem eq_of_rowEntries_eq {n : Nat} {x y : Word} (hx : x ∈ nBitWords n) (hy : y ∈ nBitWords n)
    (h : rowEntries n x = rowEntries n y) : x = y := by
  refine BitVec.eq_of_getLsbD_eq fun j _ => ?_
  by_cases hj : j < n
  · exact gf2_injective (congrFun h ⟨j, hj⟩)
  · exact (bit_of_mem hx (Nat.not_lt.mp hj)).trans (bit_of_mem hy (Nat.not_lt.mp hj)).symm

theorem rowEntries_and_mask {n : Nat} (hn : n ≤ 64) (z : Word) : rowEntries n (z &&& mask n) = rowEntries n z := by
  funext j
  simp [rowEntries, hn]

/-- `matvec` is the product of a row vector and a matrix over GF(2) (43_stage_bank.md R204). -/
theorem rowEntries_matvec {n : Nat} (hn : n ≤ 64) (x : BitMatrix) (z : Word) :
    rowEntries n (matvec x z n) = Matrix.vecMul (rowEntries n z) (entries n x) := by
  funext i
  rw [matvec, rowEntries_and_mask hn, rowEntries, gf2_bit_xorOver, Matrix.vecMul, dotProduct,
    ← Fin.sum_univ_eq_sum_range (fun j => gf2 (bit z j) * gf2 (bit (rowAt x j) i))]
  rfl

theorem matvec_mem {n : Nat} (hn : n ≤ 64) (x : BitMatrix) (z : Word) : matvec x z n ∈ nBitWords n :=
  and_mask_mem hn _

theorem matvec_multiply {n : Nat} (hn : n ≤ 64) (x y : BitMatrix) (z : Word) :
    matvec (multiply x y n) z n = matvec y (matvec x z n) n := by
  refine eq_of_rowEntries_eq (matvec_mem hn _ _) (matvec_mem hn _ _) ?_
  simp only [rowEntries_matvec hn, entries_multiply hn, Matrix.vecMul_vecMul]

theorem matvec_identity {n : Nat} (hn : n ≤ 64) (z : Word) : matvec (identity n) z n = z &&& mask n := by
  refine eq_of_rowEntries_eq (matvec_mem hn _ _) (and_mask_mem hn z) ?_
  rw [rowEntries_matvec hn, entries_identity hn, Matrix.vecMul_one, rowEntries_and_mask hn]

theorem matvec_matvec {n : Nat} (hn : n ≤ 64) {x y : BitMatrix} (h : multiply x y n = identity n) (z : Word) :
    matvec y (matvec x z n) n = z &&& mask n := by
  rw [← matvec_multiply hn, h, matvec_identity hn]

/-- Multiplying by a matrix and by its inverse (43_stage_bank.md R205). -/
theorem matvec_mutuallyInverse {n : Nat} (hn : n ≤ 64) {x y : BitMatrix} (hxy : multiply x y n = identity n)
    (hyx : multiply y x n = identity n) : MutuallyInverse n (matvec x · n) (matvec y · n) where
  mapsTo z _ := matvec_mem hn x z
  mapsTo_inv z _ := matvec_mem hn y z
  left_inv z hz := (matvec_matvec hn hxy z).trans (and_mask_of_mem hn hz)
  right_inv z hz := (matvec_matvec hn hyx z).trans (and_mask_of_mem hn hz)

/-- The forward and the inverse stage (43_stage_bank.md R209). -/
theorem Stage.Inv.mutuallyInverse {g : Stage} {n : Nat} (hn : n ≤ 64) (hg : g.Inv n) :
    MutuallyInverse n (stageFwd g n) (stageInv g n) :=
  ((weyl_mutuallyInverse hn).comp (matvec_mutuallyInverse hn hg.m_minv hg.minv_m)).comp
    (lehmer_mutuallyInverse hn hg.mult_imult)

/-! ### The mix -/

theorem xs_mem {n : Nat} {z : Word} (hz : z ∈ nBitWords n) (s : Nat) : xs z s ∈ nBitWords n := by
  rw [mem_nBitWords, xs, BitVec.toNat_xor, BitVec.toNat_ushiftRight, Nat.shiftRight_eq_div_pow]
  exact Nat.xor_lt_two_pow hz (Nat.lt_of_le_of_lt (Nat.div_le_self _ _) hz)

theorem xs_of_le {n s : Nat} {z : Word} (hz : z ∈ nBitWords n) (hs : n ≤ s) : xs z s = z := by
  have hlt : z.toNat < 2 ^ s := Nat.lt_of_lt_of_le hz (Nat.pow_le_pow_right (by omega) hs)
  refine BitVec.eq_of_toNat_eq ?_
  rw [xs, BitVec.toNat_xor, BitVec.toNat_ushiftRight, Nat.shiftRight_eq_div_pow, Nat.div_eq_of_lt hlt, Nat.xor_zero]

theorem xs_comm (z : Word) (s t : Nat) : xs (xs z s) t = xs (xs z t) s := by
  simp only [xs, BitVec.ushiftRight_xor_distrib, ← BitVec.shiftRight_add, Nat.add_comm t s, BitVec.xor_assoc]
  rw [← BitVec.xor_assoc (z >>> s), BitVec.xor_comm (z >>> s), BitVec.xor_assoc]

/-- Two rounds at one shift are one round at the doubled shift. -/
theorem xs_xs (z : Word) (s : Nat) : xs (xs z s) s = xs z (s + s) := by
  simp only [xs, BitVec.ushiftRight_xor_distrib, ← BitVec.shiftRight_add, BitVec.xor_assoc]
  rw [← BitVec.xor_assoc (z >>> s), BitVec.xor_self, BitVec.zero_xor]

theorem unxsLoop_mem {n fuel t : Nat} {y : Word} (hy : y ∈ nBitWords n) : unxsLoop n fuel t y ∈ nBitWords n := by
  induction fuel generalizing t y with
  | zero => exact hy
  | succ fuel ih =>
    unfold unxsLoop
    split
    · exact ih (xs_mem hy t)
    · exact hy

theorem unxsLoop_round {n fuel t : Nat} {y : Word} (h : t < n) :
    unxsLoop n (fuel + 1) t y = unxsLoop n fuel (t + t) (xs y t) := by
  rw [unxsLoop, if_pos h, xs]

/-- The rounds of the loop commute with every `xs`. -/
theorem unxsLoop_xs {n fuel t s : Nat} {y : Word} : unxsLoop n fuel t (xs y s) = xs (unxsLoop n fuel t y) s := by
  induction fuel generalizing t y with
  | zero => rfl
  | succ fuel ih =>
    by_cases h : t < n
    · rw [unxsLoop_round h, unxsLoop_round h, xs_comm, ih]
    · rw [unxsLoop_stop (Nat.not_lt.mp h), unxsLoop_stop (Nat.not_lt.mp h)]

/-- Where the doubled shift passes `n` within the fuel, the loop inverts `xs` (44_mix.md R248): each round takes the
error term of shift `t` to the one of shift `2t`. -/
theorem xs_unxsLoop {n fuel t : Nat} {y : Word} (hy : y ∈ nBitWords n) (hf : n ≤ t * 2 ^ fuel) :
    xs (unxsLoop n fuel t y) t = y := by
  induction fuel generalizing t y with
  | zero => exact xs_of_le hy (by simpa using hf)
  | succ fuel ih =>
    by_cases h : t < n
    · rw [unxsLoop_round h, ← unxsLoop_xs, xs_xs, unxsLoop_xs]
      exact ih hy (by rw [← Nat.mul_two, Nat.mul_assoc, ← Nat.pow_succ']; exact hf)
    · rw [unxsLoop_stop (Nat.not_lt.mp h), xs_of_le hy (Nat.not_lt.mp h)]

/-- `xs` and `unxs` (44_mix.md R248). -/
theorem xs_mutuallyInverse {n s : Nat} (hn : n ≤ 64) (hs : 1 ≤ s) : MutuallyInverse n (xs · s) (unxs · s n) where
  mapsTo z hz := xs_mem hz s
  mapsTo_inv z hz := unxsLoop_mem hz
  left_inv z hz := unxsLoop_xs.trans (xs_unxsLoop hz (by omega))
  right_inv z hz := xs_unxsLoop hz (by omega)

/-- The forward and the inverse mix of a well-formed row (44_mix.md R249). -/
theorem mix_mutuallyInverse {r : MixRow} {n : Nat} (hn : n ≤ 64) (hr : r.WF) :
    MutuallyInverse n (mixApply r n) (mixUnapply r n) := by
  obtain ⟨⟨hs0, hs1, hs2⟩, -, hm0, hm1⟩ := hr
  exact (((((xs_mutuallyInverse hn hs0).comp (lehmer_mutuallyInverse hn hm0)).comp (xs_mutuallyInverse hn hs1)).comp
    (lehmer_mutuallyInverse hn hm1)).comp (xs_mutuallyInverse hn hs2)).masked hn

/-! ### The passes -/

/-- The forward and the inverse pass of a GeneratorState (45_permutation.md R272). -/
theorem State.GeneratorInv.mutuallyInverse {s : State} (hs : s.GeneratorInv) :
    MutuallyInverse s.width s.passFwd s.passInv := by
  have hn := hs.width_max
  have hstage (k : Fin 4) := (hs.stages k).mutuallyInverse hn
  exact (((((hstage 0).comp (hstage 1)).comp (hstage 2)).comp (hstage 3)).comp
    (mix_mutuallyInverse hn (mixRow_wf s.width))).masked hn

/-! ### The walks of the rejection loops end -/

theorem le_mask_leastWidth {m : Word} {fuel w : Nat} (h : m ≤ mask (w + fuel)) : m ≤ mask (leastWidth m fuel w) := by
  induction fuel generalizing w with
  | zero => exact h
  | succ fuel ih =>
    unfold leastWidth
    split
    case isTrue hw => exact hw
    case isFalse => exact ih (by rwa [Nat.add_right_comm])

/-- The mask of the width reaches the bound (45_permutation.md R270). -/
theorem le_mask_bitwidth (m : Word) : m ≤ mask (bitwidth m) :=
  le_mask_leastWidth (Nat.le_of_lt_succ m.isLt)

/-- Every value in range is a word of the width in use. -/
theorem State.GeneratorInv.mem_of_le {s : State} (hs : s.GeneratorInv) {x : Word} (hx : x ≤ s.max) :
    x ∈ nBitWords s.width := by
  have hmask : s.max.toNat ≤ (mask s.width).toNat := hs.width_eq ▸ le_mask_bitwidth s.max
  have hpos : 0 < 2 ^ s.width := Nat.two_pow_pos _
  have hle : x.toNat ≤ s.max.toNat := hx
  rw [toNat_mask hs.width_max] at hmask
  rw [mem_nBitWords]
  omega

/-- A rejection loop over a permutation that starts in range ends within its pass limit. -/
theorem MutuallyInverse.rejectionLoop_ne_none {n : Nat} {f g : Word → Word} (h : MutuallyInverse n f g) {max z : Word}
    (hz : z ∈ nBitWords n) (hle : z ≤ max) : rejectionLoop f max (passLimit n) z 0 ≠ none := by
  obtain ⟨v, k, hfirst, hk⟩ := h.exists_firstInRange hz hle
  rw [rejectionLoop_of_first (fuel := passLimit n) hfirst hk]
  exact Option.some_ne_none _

theorem State.GeneratorInv.walkFwd_ne_none {s : State} (hs : s.GeneratorInv) {p : Word} (hp : p ≤ s.max) :
    s.walkFwd p ≠ none :=
  hs.mutuallyInverse.rejectionLoop_ne_none (hs.mem_of_le hp) hp

theorem State.GeneratorInv.walkInv_ne_none {s : State} (hs : s.GeneratorInv) {x : Word} (hx : x ≤ s.max) :
    s.walkInv x ≠ none :=
  hs.mutuallyInverse.symm.rejectionLoop_ne_none (hs.mem_of_le hx) hx

end Sys2Proof.Machine
end

section
/-! PROOFS. Which steps take words from the entropy port, and how many (20_memory.md R80, R82, R83). -/

namespace Sys2Proof.Machine

open Sys2Proof Sys2Proof.Claims

/-! ### Only INIT and GENMAT need draws -/

theorem init_or_genmat_of_drawsNeeded_pos {i : Instr} {x : Word} (h : 0 < drawsNeeded i x) : i = .init ∨ i = .genmat := by
  cases i with
  | init => exact .inl rfl
  | genmat => exact .inr rfl
  | _ => exact absurd h (Nat.lt_irrefl 0)

theorem State.Writes.init_or_genmat_of_entropy_ne {s u : State} {x c : Word} {i : Instr} (hw : s.Writes x i u c)
    (hne : u.entropy ≠ s.entropy) : i = .init ∨ i = .genmat := by
  cases hw with
  | init h => exact .inl rfl
  | genmat a b h => exact .inr rfl
  | _ => exact absurd rfl hne

theorem State.ExecMove.init_or_genmat_of_entropy_ne {s t : State} {p : Pending} {i : Instr} (hm : s.ExecMove p i t)
    (hne : t.entropy ≠ s.entropy) : i = .init ∨ i = .genmat := by
  cases hm with
  | wait hc hlen => exact init_or_genmat_of_drawsNeeded_pos (Nat.zero_lt_of_lt hlen)
  | commit u c hc hw => exact hw.init_or_genmat_of_entropy_ne hne
  | _ => exact absurd rfl hne

/-- The block agent's turn takes words only for the INIT or GENMAT it executes. -/
theorem blockStep_of_entropy_ne {s t : State} (h : blockStep s = .next t) (hne : t.entropy ≠ s.entropy) :
    ∃ p i, s.pend = some p ∧ decodeWord p.word = .instr i ∧ (i = .init ∨ i = .genmat) := by
  cases hp : s.pend with
  | none =>
    cases (blockStep_idle hp).symm.trans h
    exact absurd rfl hne
  | some p =>
    cases hd : decodeWord p.word with
    | rejected e =>
      cases (blockStep_undecoded hp hd).symm.trans h
      exact absurd rfl hne
    | instr i =>
      obtain ⟨q, -, hm⟩ := exec_move ((blockStep_exec hp hd).symm.trans h)
      exact ⟨p, i, rfl, hd, hm.init_or_genmat_of_entropy_ne hne⟩

theorem issue_entropy (s : State) (v : Word) : (s.issue v).entropy = s.entropy := by
  obtain ⟨-, h⟩ | ⟨-, e, h⟩ | ⟨-, i, -, -, h⟩ := issue_cases s v <;> rw [h] <;> rfl

theorem busAccess_entropy (s : State) (a : Access) : (s.busAccess a).entropy = s.entropy := by
  obtain ⟨r, h | ⟨v, h⟩ | ⟨v, h⟩⟩ := busAccess_cases s a
  · rw [h]
  · rw [h]
    exact issue_entropy s v
  · rw [h]

/-- In a step that changes the words on offer the source offers one, or the block executes an INIT or a GENMAT. -/
theorem step_of_entropy_ne {s t : State} (h : step s = .next t) (hne : t.entropy ≠ s.entropy) :
    (∃ w rest, s.inputs = .offer w :: rest ∧ t.entropy = s.entropy ++ [w]) ∨
      ExecutesNow s .init ∨ ExecutesNow s .genmat := by
  have hturn {ins : List Input} (hin : s.inputs = [] ∨ ∃ rest, s.inputs = .block :: rest)
      (ht : blockStep { s with inputs := ins } = .next t) : ExecutesNow s .init ∨ ExecutesNow s .genmat := by
    obtain ⟨p, i, hp, hd, rfl | rfl⟩ := blockStep_of_entropy_ne ht hne
    · exact .inl ⟨hin, p, hp, hd⟩
    · exact .inr ⟨hin, p, hp, hd⟩
  rcases step_cases s with ⟨hin, hs⟩ | ⟨rest, hin, hs⟩ | ⟨a, rest, hin, hs⟩ | ⟨rest, hin, hs⟩ | ⟨w, rest, hin, hs⟩ |
    ⟨rest, hin, hs⟩
  · exact .inr (hturn (ins := s.inputs) (.inl hin) (hs.symm.trans h))
  · exact .inr (hturn (.inr ⟨rest, hin⟩) (hs.symm.trans h))
  · cases hs.symm.trans h
    exact absurd (busAccess_entropy _ a) hne
  · rw [pollRound_eq] at hs
    cases hs.symm.trans h
    exact absurd rfl hne
  · cases hs.symm.trans h
    exact .inl ⟨w, rest, hin, rfl⟩
  · cases hs.symm.trans h
    exact absurd rfl hne

/-! ### What the executing command takes -/

/-- The step of a state that executes `i` is a move of the meaning of `i`, with the event spent that gave it the turn. -/
theorem execMove_of_executesNow {s t : State} {p : Pending} {i : Instr} (hx : ExecutesNow s i) (hp : s.pend = some p)
    (h : step s = .next t) : ∃ ins, State.ExecMove { s with inputs := ins } p i t := by
  obtain ⟨hin, q, hq, hd⟩ := hx
  obtain rfl : p = q := Option.some.inj (hp.symm.trans hq)
  obtain ⟨ins, hs⟩ : ∃ ins, step s = exec i { s with inputs := ins } := by
    obtain hin | ⟨rest, hin⟩ := hin
    · exact ⟨s.inputs, (step_nil hin).trans (blockStep_exec hp hd)⟩
    · exact ⟨rest, (step_block hin).trans (blockStep_exec hp hd)⟩
  obtain ⟨q, hq, hm⟩ := exec_move (hs.symm.trans h)
  obtain rfl : p = q := Option.some.inj (hp.symm.trans hq)
  exact ⟨ins, hm⟩

theorem State.Inv.withInputs {s : State} (hs : s.Inv) (ins : List Input) : State.Inv { s with inputs := ins } := by
  have hbound : State.BoundInv { s with inputs := ins } := hs.bound.congr rfl rfl rfl rfl rfl
  exact ⟨hs.latch.congr rfl rfl rfl rfl rfl rfl, hbound.generator, hbound.blank⟩

/-- A command that passes its checks and needs READY runs in a GeneratorState. -/
theorem State.Inv.generator_of_check {s : State} {x : Word} {i : Instr} (hs : s.Inv) (hi : needsReady i = true)
    (hc : check i x s = none) : s.GeneratorInv := by
  refine hs.generator (Bool.eq_true_of_not_eq_false fun hr => ?_)
  exact absurd ((check_noinit hi hr).symm.trans hc) (Option.some_ne_none _)

theorem operandCheck_of_check {i : Instr} {x : Word} {s : State} (hc : check i x s = none) :
    operandCheck i x s = none := by
  unfold check at hc
  split at hc
  · cases hc
  · split at hc
    · cases hc
    · exact hc

theorem undo_operand_le {s : State} {x : Word} (hc : check .undo x s = none) : x ≤ s.max := by
  by_contra hlt
  have hrange : operandCheck .undo x s = some .range := if_pos (BitVec.not_le.mp hlt)
  exact absurd (hrange.symm.trans (operandCheck_of_check hc)) (Option.some_ne_none _)

/-- No command of a state with the invariant stays in a rejection loop (45_permutation.md R283). -/
theorem State.Inv.not_loop {s : State} {x : Word} {i : Instr} (hs : s.Inv) (hc : check i x s = none) :
    ¬ (i = .next ∧ s.walkFwd s.position = none ∨ i = .undo ∧ s.walkInv x = none) := by
  rintro (⟨rfl, hw⟩ | ⟨rfl, hw⟩)
  · have hg := hs.generator_of_check rfl hc
    exact hg.walkFwd_ne_none hg.position_le hw
  · exact (hs.generator_of_check rfl hc).walkInv_ne_none (undo_operand_le hc) hw

/-- A commit finds the draws its command needs and leaves the words on offer after them. -/
theorem State.Writes.entropy_eq_drop {s u : State} {x c : Word} {i : Instr} (hw : s.Writes x i u c) :
    u.entropy = s.entropy.drop (drawsNeeded i x - s.taken.length) ∧
      drawsNeeded i x ≤ s.taken.length + s.entropy.length := by
  have none_needed {j : Instr} (hj : drawsNeeded j x = 0) :
      s.entropy = s.entropy.drop (drawsNeeded j x - s.taken.length) ∧
        drawsNeeded j x ≤ s.taken.length + s.entropy.length := by simp [hj]
  cases hw with
  | init h => exact ⟨rfl, h⟩
  | genmat a b h => exact ⟨rfl, h⟩
  | result i r c hr hn => exact none_needed (drawsNeeded_of_writesResult hr)
  | _ => exact none_needed rfl

/-- The draws of a command that holds no more than it needs, and the words on offer after them. -/
theorem State.draws_append_drop {s : State} {need : Nat} (h : s.taken.length ≤ need) :
    s.draws need ++ s.entropy.drop (need - s.taken.length) = s.taken ++ s.entropy := by
  rw [State.draws, List.take_append, List.take_of_length_le h, List.append_assoc, List.take_append_drop]

/-- The executing command takes words from the front: at its commit exactly those it needs, and all of them while it waits
for more (20_memory.md R82, R83). -/
theorem State.ExecMove.takes {s t : State} {p : Pending} {i : Instr} (hm : s.ExecMove p i t) (hs : s.Inv)
    (hp : s.pend = some p) (hd : decodeWord p.word = .instr i) :
    ∃ ds, s.taken ++ s.entropy = ds ++ t.entropy ∧
      ((t.status.busy = false ∧ ds.length = drawsNeeded i p.operand ∧ t.taken = []) ∨
        (t.status.busy = true ∧ t.taken = ds ∧ t.entropy = [] ∧ ds.length < drawsNeeded i p.operand)) := by
  obtain ⟨hcheck, htaken⟩ := hs.latch.of_pend hp hd
  cases hm with
  | abort e he => exact absurd (he.symm.trans hcheck) (Option.some_ne_none e)
  | loop hc hi => exact absurd hi (hs.not_loop hc)
  | wait hc hlen =>
    have hbusy : s.status.busy = true := by rw [hs.latch.busy_iff, hp, Option.isSome_some]
    exact ⟨s.taken ++ s.entropy, (List.append_nil _).symm, .inr ⟨hbusy, rfl, rfl, by rwa [List.length_append]⟩⟩
  | commit u c hc hw =>
    obtain ⟨hdrop, hneed⟩ := hw.entropy_eq_drop
    have hle : s.taken.length ≤ drawsNeeded i p.operand := by
      rcases htaken with h | h
      · rw [h]
        exact Nat.zero_le _
      · exact h.le
    refine ⟨s.draws (drawsNeeded i p.operand), ?_, .inl ⟨rfl, length_take_draws hneed, hw.taken_eq_nil htaken⟩⟩
    rw [State.commit_entropy, hdrop, State.draws_append_drop hle]

/-- Settles O59: by the first event of the step, and by the moves of the command that executes. -/
theorem onlyInitAndGenmatDraw : Obligations.OnlyInitAndGenmatDraw := by
  refine ⟨fun s t h hne => step_of_entropy_ne h hne.symm, fun s t i hs hx h p hp => ?_, fun max => rfl, fun n => rfl⟩
  obtain ⟨ins, hm⟩ := execMove_of_executesNow hx hp h
  obtain ⟨-, q, hq, hd⟩ := hx
  obtain rfl : p = q := Option.some.inj (hp.symm.trans hq)
  exact hm.takes (hs.withInputs ins) hp hd

end Sys2Proof.Machine
end

section
/-! PROOFS. The decoder and the encoder agree (30_encoding.md R100 to R107): the fields of a command word as masked bits,
the rows of the opcode table, and the byte lanes of a word. -/

namespace Sys2Proof

/-! ### Masking with the bits of a field -/

/-- The `n` bits of a word from bit `s` on. -/
def fieldMask (s n : Nat) : Word := (BitVec.allOnes n).setWidth 64 <<< s

@[simp] theorem getElem_fieldMask (s n : Nat) {j : Nat} (hj : j < 64) :
    (fieldMask s n)[j] = decide (s ≤ j ∧ j < s + n) := by
  rw [Bool.eq_iff_iff]
  simp [fieldMask]
  omega

/-- Masking with the bits of a field leaves the field, in its place. -/
theorem and_fieldMask (v : Word) (s n : Nat) : v &&& fieldMask s n = (v.extractLsb' s n).setWidth 64 <<< s := by
  ext j hj
  by_cases hs : s ≤ j
  · simp [hj, hs, show j - s < n ↔ j < s + n by omega, Bool.and_comm]
  · simp [hs]

theorem and_fieldMask_eq_zero_iff (v : Word) (s n : Nat) : v &&& fieldMask s n = 0 ↔ v.extractLsb' s n = 0 := by
  constructor
  · intro h
    ext i hi
    have hbit : (v &&& fieldMask s n).getLsbD (s + i) = false := by rw [h]; simp
    by_cases hlt : s + i < 64
    · simpa [hi, hlt] using hbit
    · simp [BitVec.getLsbD_of_ge v (s + i) (by omega)]
  · intro h
    simp [and_fieldMask, h]

/-- A field in its place has bits where the field's bits are and nowhere else. -/
theorem field_and_fieldMask {n : Nat} (s : Nat) (x : BitVec n) :
    x.setWidth 64 <<< s &&& fieldMask s n = x.setWidth 64 <<< s := by
  ext j hj
  by_cases hn : j < s + n
  · by_cases hs : s ≤ j <;> simp [hs, hn]
  · simp [hn, BitVec.getLsbD_of_ge x (j - s) (by omega)]

theorem field_and_eq_zero {s n : Nat} {m : Word} (x : BitVec n) (h : fieldMask s n &&& m = 0) :
    x.setWidth 64 <<< s &&& m = 0 := by
  rw [← field_and_fieldMask, BitVec.and_assoc, h]
  exact BitVec.and_zero

theorem and_or_eq_zero_iff (v a b : Word) : v &&& (a ||| b) = 0 ↔ v &&& a = 0 ∧ v &&& b = 0 := by
  rw [BitVec.and_or_distrib_left]
  exact BitVec.or_eq_zero_iff

theorem or_and_eq_zero {a b m : Word} (ha : a &&& m = 0) (hb : b &&& m = 0) : (a ||| b) &&& m = 0 := by
  rw [BitVec.and_comm, and_or_eq_zero_iff, BitVec.and_comm m, BitVec.and_comm m]
  exact ⟨ha, hb⟩

theorem and_ite_eq_zero_iff (v m : Word) (p : Prop) [Decidable p] :
    v &&& (if p then m else 0) = 0 ↔ (p → v &&& m = 0) := by
  by_cases h : p <;> simp [h]

/-! ### The fields of a command word -/

theorem fieldMask_op : fieldMask 0 8 = 0xFF := by decide
theorem fieldMask_k : fieldMask 8 2 = kBits := by decide
theorem fieldMask_s : fieldMask 10 1 = sBit := by decide
theorem fieldMask_row : fieldMask 16 6 = rowBits := by decide

theorem toBit_sField (v : Word) : (sField v).toBit = v.extractLsb' 10 1 := by
  ext j hj
  obtain rfl : j = 0 := by omega
  cases h : v[10] <;> simp [sField, h, Select.toBit]

theorem and_kBits_eq_zero_iff (v : Word) : v &&& kBits = 0 ↔ kField v = 0 := by
  rw [← fieldMask_k]
  exact and_fieldMask_eq_zero_iff v 8 2

theorem and_sBit_eq_zero_iff (v : Word) : v &&& sBit = 0 ↔ sField v = .fwd := by
  rw [← fieldMask_s, and_fieldMask_eq_zero_iff, ← toBit_sField]
  cases sField v <;> decide

theorem and_rowBits_eq_zero_iff (v : Word) : v &&& rowBits = 0 ↔ rowField v = 0 := by
  rw [← fieldMask_row]
  exact and_fieldMask_eq_zero_iff v 16 6

/-- The bits of a word that no command has a field in: [15:11] and [63:22] (30_encoding.md R102). -/
def reservedBits : Word := 0xFFFFFFFFFFC0F800

/-- A word without reserved bits is put together from its fields. -/
theorem commandWord_fields {v : Word} (h : v &&& reservedBits = 0) :
    commandWord (opField v) (kField v) (sField v) (rowField v) = v := by
  have hall : 0xFF ||| kBits ||| sBit ||| rowBits ||| reservedBits = BitVec.allOnes 64 := by decide
  calc commandWord (opField v) (kField v) (sField v) (rowField v)
    _ = v &&& fieldMask 0 8 ||| v &&& fieldMask 8 2 ||| v &&& fieldMask 10 1 ||| v &&& fieldMask 16 6 := by
      simp only [and_fieldMask, ← toBit_sField, BitVec.shiftLeft_zero]
      rfl
    _ = v &&& (0xFF ||| kBits ||| sBit ||| rowBits ||| reservedBits) := by
      simp only [BitVec.and_or_distrib_left, h, fieldMask_op, fieldMask_k, fieldMask_s, fieldMask_row]
      exact BitVec.or_zero.symm
    _ = v := by rw [hall, BitVec.and_allOnes]

theorem commandWord_and_reservedBits (op : BitVec 8) (k : BitVec 2) (sel : Select) (row : BitVec 6) :
    commandWord op k sel row &&& reservedBits = 0 := by
  have hop : op.setWidth 64 <<< 0 &&& reservedBits = 0 := field_and_eq_zero op (by decide)
  have hk : k.setWidth 64 <<< 8 &&& reservedBits = 0 := field_and_eq_zero k (by decide)
  have hs : sel.toBit.setWidth 64 <<< 10 &&& reservedBits = 0 := field_and_eq_zero sel.toBit (by decide)
  have hrow : row.setWidth 64 <<< 16 &&& reservedBits = 0 := field_and_eq_zero row (by decide)
  rw [BitVec.shiftLeft_zero] at hop
  exact or_and_eq_zero (or_and_eq_zero (or_and_eq_zero hop hk) hs) hrow

/-! ### The rows of the opcode table -/

theorem opcodeRow?_some_iff {op : BitVec 8} {r : OpcodeRow} :
    opcodeRow? op = some r ↔ r ∈ opcodeTable ∧ r.op = op := by
  have hfind : ∀ r ∈ opcodeTable, opcodeRow? r.op = some r := by
    intro r hr
    fin_cases hr <;> rfl
  constructor
  · exact fun h => ⟨List.mem_of_find?_eq_some h, opcodeRow?_op h⟩
  · rintro ⟨hr, rfl⟩
    exact hfind r hr

/-- A field of a row: `x` where the row uses the field's bits, `z` where it does not. -/
def OpcodeRow.fieldOr {α : Type} (r : OpcodeRow) (bits : Word) (z x : α) : α := if r.used &&& bits = 0 then z else x

theorem fieldOr_eq_iff {α : Type} {r : OpcodeRow} {bits : Word} {z x : α} :
    r.fieldOr bits z x = x ↔ (r.used &&& bits = 0 → x = z) := by
  rw [OpcodeRow.fieldOr, ite_eq_right_iff]
  exact forall_congr' fun _ => eq_comm

theorem fieldOr_fieldOr {α : Type} (r : OpcodeRow) (bits : Word) (z x : α) :
    r.fieldOr bits z (r.fieldOr bits z x) = r.fieldOr bits z x :=
  fieldOr_eq_iff.mpr fun h => if_pos h

/-- The bits outside OP and the used fields are the reserved bits and those of the unused fields. -/
theorem unusedBits_eq : ∀ r ∈ opcodeTable, ~~~(0xFF ||| r.used) =
    reservedBits ||| (if r.used &&& kBits = 0 then kBits else 0) ||| (if r.used &&& sBit = 0 then sBit else 0) |||
      (if r.used &&& rowBits = 0 then rowBits else 0) := by
  decide

section

variable {r : OpcodeRow} (hr : r ∈ opcodeTable)

include hr

/-- A word has no bit outside OP and the used fields of a row exactly when it has no reserved bit and the fields that the
row does not use are 0. -/
theorem and_unusedBits_eq_zero_iff (v : Word) :
    v &&& ~~~(0xFF ||| r.used) = 0 ↔ v &&& reservedBits = 0 ∧ r.fieldOr kBits 0 (kField v) = kField v ∧
      r.fieldOr sBit .fwd (sField v) = sField v ∧ r.fieldOr rowBits 0 (rowField v) = rowField v := by
  rw [unusedBits_eq r hr]
  simp only [and_or_eq_zero_iff, and_ite_eq_zero_iff, and_assoc, fieldOr_eq_iff, and_kBits_eq_zero_iff,
    and_sBit_eq_zero_iff, and_rowBits_eq_zero_iff]

/-- The word of a row's command has the row's opcode and the fields it uses; the others are 0 (30_encoding.md R114). -/
theorem encode_build (k : BitVec 2) (sel : Select) (row : BitVec 6) : encode (r.build k sel row) =
    commandWord r.op (r.fieldOr kBits 0 k) (r.fieldOr sBit .fwd sel) (r.fieldOr rowBits 0 row) := by
  fin_cases hr <;> rfl

/-- A row reads the fields it uses and no other. -/
theorem build_fieldOr (k : BitVec 2) (sel : Select) (row : BitVec 6) :
    r.build (r.fieldOr kBits 0 k) (r.fieldOr sBit .fwd sel) (r.fieldOr rowBits 0 row) = r.build k sel row := by
  fin_cases hr <;> rfl

end

/-- Every command is what a row of the table makes of some fields. -/
theorem exists_build (i : Instr) : ∃ r ∈ opcodeTable, ∃ k sel row, i = r.build k sel row := by
  suffices h : ∃ r, opcodeRow? (Laws.opcodeOf i) = some r ∧ ∃ k sel row, i = r.build k sel row by
    obtain ⟨r, hr, hbuild⟩ := h
    exact ⟨r, (opcodeRow?_some_iff.mp hr).1, hbuild⟩
  cases i with
  | nop | clrerr | init | next | undo | modinv | mixFwd | mixInv | passFwd | passInv | matmul | genmat =>
    exact ⟨_, rfl, 0, .fwd, 0, rfl⟩
  | stageFwd k | stageInv k => exact ⟨_, rfl, k, .fwd, 0, rfl⟩
  | matvec k sel | readMult k sel => exact ⟨_, rfl, k, sel, 0, rfl⟩
  | readRow k sel row => exact ⟨_, rfl, k, sel, row, rfl⟩
  | readMixc row => exact ⟨_, rfl, 0, .fwd, row, rfl⟩
  | scrWr k row | scrRd k row => exact ⟨_, rfl, k, .fwd, row, rfl⟩

/-! ### The decoder -/

section

variable {v : Word} {r : OpcodeRow}

theorem decodeWord_illegal (h : opcodeRow? (opField v) = none) : decodeWord v = .rejected .illegal := by
  simp [decodeWord, h]

theorem decodeWord_reserved (h : opcodeRow? (opField v) = some r) (hu : v &&& ~~~(0xFF ||| r.used) ≠ 0) :
    decodeWord v = .rejected .reserved := by
  simp only [decodeWord, h]
  exact if_pos hu

theorem decodeWord_build (h : opcodeRow? (opField v) = some r) (hu : v &&& ~~~(0xFF ||| r.used) = 0) :
    decodeWord v = .instr (r.build (kField v) (sField v) (rowField v)) := by
  simp only [decodeWord, h]
  exact if_neg (not_not.mpr hu)

end

/-- A word decodes to what its row makes of its fields, if it has a row and no bit outside OP and the row's fields. -/
theorem decodeWord_eq_instr_iff_row {v : Word} {i : Instr} :
    decodeWord v = .instr i ↔ ∃ r ∈ opcodeTable, r.op = opField v ∧ v &&& ~~~(0xFF ||| r.used) = 0 ∧
      i = r.build (kField v) (sField v) (rowField v) := by
  constructor
  · intro h
    cases hr : opcodeRow? (opField v) with
    | none => exact absurd ((decodeWord_illegal hr).symm.trans h) nofun
    | some r =>
      obtain ⟨hmem, hop⟩ := opcodeRow?_some_iff.mp hr
      by_cases hu : v &&& ~~~(0xFF ||| r.used) = 0
      · exact ⟨r, hmem, hop, hu, (Decoded.instr.inj ((decodeWord_build hr hu).symm.trans h)).symm⟩
      · exact absurd ((decodeWord_reserved hr hu).symm.trans h) nofun
  · rintro ⟨r, hmem, hop, hu, rfl⟩
    exact decodeWord_build (opcodeRow?_some_iff.mpr ⟨hmem, hop⟩) hu

/-- A word decodes to a command exactly when it is the command's word. -/
theorem decodeWord_eq_instr_iff {v : Word} {i : Instr} : decodeWord v = .instr i ↔ v = encode i := by
  constructor
  · intro h
    obtain ⟨r, hr, hop, hu, rfl⟩ := decodeWord_eq_instr_iff_row.mp h
    obtain ⟨hres, hk, hs, hrow⟩ := (and_unusedBits_eq_zero_iff hr v).mp hu
    rw [encode_build hr, hop, hk, hs, hrow, commandWord_fields hres]
  · rintro rfl
    obtain ⟨r, hr, k, sel, row, rfl⟩ := exists_build i
    rw [encode_build hr, decodeWord_eq_instr_iff_row]
    refine ⟨r, hr, (opField_commandWord _ _ _ _).symm, (and_unusedBits_eq_zero_iff hr _).mpr
      ⟨commandWord_and_reservedBits _ _ _ _, ?_, ?_, ?_⟩, ?_⟩
    · rw [kField_commandWord, fieldOr_fieldOr]
    · rw [sField_commandWord, fieldOr_fieldOr]
    · rw [rowField_commandWord, fieldOr_fieldOr]
    · rw [kField_commandWord, sField_commandWord, rowField_commandWord, build_fieldOr hr]

/-! ### The bytes of a word -/

/-- Bit `j` of a word stands in its byte `j / 8` (20_memory.md R74). -/
theorem getLsbD_wordOfLanes (bs : List Byte) {j : Nat} (hj : j < 64) :
    (wordOfLanes bs).getLsbD j = (bs.getD (j / 8) 0).getLsbD (j % 8) := by
  induction bs generalizing j with
  | nil => simp [wordOfLanes]
  | cons b bs ih =>
    rw [wordOfLanes, BitVec.getLsbD_or, BitVec.getLsbD_setWidth, BitVec.getLsbD_shiftLeft]
    by_cases h8 : j < 8
    · simp [h8, hj, Nat.div_eq_of_lt h8, Nat.mod_eq_of_lt h8]
    · have hdiv : j / 8 = (j - 8) / 8 + 1 := by omega
      have hmod : j % 8 = (j - 8) % 8 := by omega
      rw [ih (by omega), BitVec.getLsbD_of_ge b j (by omega), hdiv, hmod, List.getD_cons_succ]
      simp [h8, hj]

theorem lane_wordOfLanes (bs : List Byte) {k : Nat} (hk : k < 8) : lane (wordOfLanes bs) k = bs.getD k 0 := by
  refine BitVec.eq_of_getLsbD_eq fun j hj => ?_
  have hdiv : (8 * k + j) / 8 = k := by omega
  have hmod : (8 * k + j) % 8 = j := by omega
  rw [lane, BitVec.getLsbD_extractLsb', getLsbD_wordOfLanes bs (by omega), hdiv, hmod]
  simp [hj]

@[simp] theorem length_lanes (v : Word) : (lanes v).length = 8 := by
  simp [lanes]

theorem lanes_wordOfLanes {bs : List Byte} (h : bs.length = 8) : lanes (wordOfLanes bs) = bs := by
  refine List.ext_getElem (by rw [length_lanes, h]) fun k hk hk' => ?_
  rw [length_lanes] at hk
  simp [lanes, lane_wordOfLanes bs hk, hk']

theorem wordOfLanes_lanes (v : Word) : wordOfLanes (lanes v) = v := by
  refine BitVec.eq_of_getLsbD_eq fun j hj => ?_
  have hsplit : 8 * (j / 8) + j % 8 = j := by omega
  have hlane : (lanes v).getD (j / 8) 0 = lane v (j / 8) := by
    simp [lanes, show j / 8 < 8 by omega]
  rw [getLsbD_wordOfLanes _ hj, hlane, lane, BitVec.getLsbD_extractLsb', hsplit]
  simp [Nat.mod_lt]

theorem decodeBytes_of_length {bs : List Byte} (h : bs.length = 8) : decodeBytes bs = decodeWord (wordOfLanes bs) :=
  if_pos h

theorem length_of_decodeBytes {bs : List Byte} {i : Instr} (h : decodeBytes bs = .instr i) : bs.length = 8 := by
  unfold decodeBytes at h
  split at h
  · assumption
  · cases h

/-- Settles O2: eight bytes and their word determine each other, and a word that decodes is put together from its fields,
the unused ones being 0. -/
theorem bytesDecodeExactlyTheirEncoding : Obligations.BytesDecodeExactlyTheirEncoding := by
  intro bs i
  constructor
  · intro h
    have hlen := length_of_decodeBytes h
    rw [decodeBytes_of_length hlen, decodeWord_eq_instr_iff] at h
    rw [encodeBytes, ← h, lanes_wordOfLanes hlen]
  · rintro rfl
    rw [encodeBytes, decodeBytes_of_length (length_lanes _), wordOfLanes_lanes, decodeWord_eq_instr_iff]

/-! ### Match and mask -/

/-- What the mask and the match word of a row are made of (30_encoding.md R105). -/
theorem mask_facts : ∀ r ∈ opcodeTable, r.mask = 0xFF ||| ~~~(0xFF ||| r.used) ∧ opField r.mask = BitVec.allOnes 8 ∧
    r.mask &&& ~~~(0xFF ||| r.used) = ~~~(0xFF ||| r.used) ∧ opField r.matchWord = r.op ∧
    r.matchWord &&& ~~~(0xFF ||| r.used) = 0 := by
  decide

/-- A word matches a row under its mask exactly when it has the row's opcode and no bit outside OP and the used fields
(30_encoding.md R102, R105). -/
theorem and_mask_eq_matchWord_iff {r : OpcodeRow} (hr : r ∈ opcodeTable) (v : Word) :
    v &&& r.mask = r.matchWord ↔ r.op = opField v ∧ v &&& ~~~(0xFF ||| r.used) = 0 := by
  obtain ⟨hmask, hopMask, hunused, hopMatch, hmatch⟩ := mask_facts r hr
  constructor
  · intro h
    constructor
    · calc r.op
        _ = opField (v &&& r.mask) := by rw [h, hopMatch]
        _ = opField v &&& opField r.mask := BitVec.extractLsb'_and
        _ = opField v := by rw [hopMask, BitVec.and_allOnes]
    · rw [← hunused, ← BitVec.and_assoc, h, hmatch]
  · rintro ⟨hop, hu⟩
    rw [hmask, BitVec.and_or_distrib_left, hu, ← fieldMask_op, and_fieldMask, OpcodeRow.matchWord, hop]
    simp [opField]

/-- Settles O3: a row matched is the row of the word's opcode. -/
theorem opcodeRowsMatchAndDoNotOverlap : Obligations.OpcodeRowsMatchAndDoNotOverlap := by
  refine ⟨rfl, fun v i => ?_, fun v r hr q hq hmr hmq => ?_⟩
  · rw [decodeWord_eq_instr_iff_row]
    refine exists_congr fun r => and_congr_right fun hr => ?_
    rw [and_mask_eq_matchWord_iff hr, and_assoc]
    rfl
  · have hopr := ((and_mask_eq_matchWord_iff hr v).mp hmr).1
    have hopq := ((and_mask_eq_matchWord_iff hq v).mp hmq).1
    have hrow := opcodeRow?_some_iff.mpr ⟨hr, hopr⟩
    rw [opcodeRow?_some_iff.mpr ⟨hq, hopq⟩] at hrow
    rw [Option.some.inj hrow]

end Sys2Proof
end

section
/-! PROOFS. How the idle block answers a CMD write (30_encoding.md R106, R107, R110): the illegal and the reserved words,
and the model's checks as the spec's `decode(v)` on the word's numbers. -/

namespace Sys2Proof.Machine

open Sys2Proof Sys2Proof.Claims

/-! ### Illegal and reserved words -/

theorem legalOpcodes_eq : legalOpcodes = opcodeTable.map OpcodeRow.op := rfl

theorem opcodeRow?_none_iff {op : BitVec 8} : opcodeRow? op = none ↔ op ∉ legalOpcodes := by
  simp [opcodeRow?, legalOpcodes_eq]

theorem exists_opcodeRow? {op : BitVec 8} (h : op ∈ legalOpcodes) : ∃ r ∈ opcodeTable, opcodeRow? op = some r := by
  rw [legalOpcodes_eq, List.mem_map] at h
  obtain ⟨r, hr, rfl⟩ := h
  exact ⟨r, hr, opcodeRow?_some_iff.mpr ⟨hr, rfl⟩⟩

/-- The fields that a row uses are those of its opcode (30_encoding.md R104). -/
theorem used_eq : ∀ r ∈ opcodeTable, r.used = usedFieldsOf r.op := by
  decide

theorem decodeWord_illegal_iff {v : Word} : decodeWord v = .rejected .illegal ↔ opField v ∉ legalOpcodes := by
  rw [← opcodeRow?_none_iff]
  refine ⟨fun h => ?_, decodeWord_illegal⟩
  cases hr : opcodeRow? (opField v) with
  | none => rfl
  | some r =>
    by_cases hu : v &&& ~~~(0xFF ||| r.used) = 0
    · exact absurd ((decodeWord_build hr hu).symm.trans h) nofun
    · exact absurd ((decodeWord_reserved hr hu).symm.trans h) nofun

theorem unusedBits_eq_zero_of_decode {v : Word} {i : Instr} (h : decodeWord v = .instr i) :
    v &&& ~~~(0xFF ||| usedFieldsOf (opField v)) = 0 := by
  obtain ⟨r, hr, hop, hu, -⟩ := decodeWord_eq_instr_iff_row.mp h
  rw [← hop, ← used_eq r hr]
  exact hu

/-- A bit in [15:11] or [63:22] is outside OP and the fields of every row. -/
theorem unusedBits_ne_zero {v : Word} {r : OpcodeRow} (hr : r ∈ opcodeTable)
    (h : v.extractLsb' 11 5 ≠ 0 ∨ v.extractLsb' 22 42 ≠ 0) : v &&& ~~~(0xFF ||| r.used) ≠ 0 := by
  have hsplit : reservedBits = fieldMask 11 5 ||| fieldMask 22 42 := by decide
  intro hu
  have hres := ((and_unusedBits_eq_zero_iff hr v).mp hu).1
  rw [hsplit, and_or_eq_zero_iff, and_fieldMask_eq_zero_iff, and_fieldMask_eq_zero_iff] at hres
  exact h.elim (absurd hres.1) (absurd hres.2)

/-- 236 of the 256 opcodes are not listed (30_encoding.md R106). -/
theorem length_illegalOpcodes : ((List.range 256).filter fun n => BitVec.ofNat 8 n ∉ legalOpcodes).length = 236 := by
  decide +kernel

/-- Settles O4: an OP is illegal where the table has no row for it, and the bits [15:11] and [63:22] are those of no
field. -/
theorem illegalAndReservedWordsAreRejected : Obligations.IllegalAndReservedWordsAreRejected := by
  refine ⟨fun v => decodeWord_illegal_iff, length_illegalOpcodes,
    fun s v hb hop => issue_undecoded hb (decodeWord_illegal_iff.mpr hop), fun s v hb hop hu => ?_,
    fun s v hb hop h => ?_, fun v i => unusedBits_eq_zero_of_decode⟩
  · obtain ⟨r, hmem, hr⟩ := exists_opcodeRow? hop
    have hop := (opcodeRow?_some_iff.mp hr).2
    have hu : v &&& ~~~(0xFF ||| r.used) ≠ 0 := by rwa [used_eq r hmem, hop]
    exact issue_undecoded hb (decodeWord_reserved hr hu)
  · obtain ⟨r, hmem, hr⟩ := exists_opcodeRow? hop
    exact issue_undecoded hb (decodeWord_reserved hr (unusedBits_ne_zero hmem h))

/-! ### The checks in the order of R110 -/

theorem operandCheck_modinv (x : Word) (s : State) :
    operandCheck .modinv x s = if x.getLsbD 0 = false then some .even else none := by
  cases h : x.getLsbD 0 <;> simp only [operandCheck, bit, h] <;> rfl

theorem operandCheck_size {i : Instr} (hi : i = .matmul ∨ i = .genmat) (x : Word) (s : State) :
    operandCheck i x s = if ¬ (1 ≤ x ∧ x ≤ 64) then some .field else none := by
  have hsize : sizeOk x = true ↔ 1 ≤ x ∧ x ≤ 64 := by simp [sizeOk, BitVec.le_def]
  rcases hi with rfl | rfl <;> simp only [operandCheck, hsize, ite_not]

section

variable {r : OpcodeRow} (hr : r ∈ opcodeTable) (k : BitVec 2) (sel : Select) (row : BitVec 6)

include hr

theorem needsReady_build : needsReady (r.build k sel row) = needsReadyOf r.op := by
  fin_cases hr <;> rfl

theorem fieldOutOfRange_build (s : State) : fieldOutOfRange (r.build k sel row) s = true ↔
    (r.op = 0x40 ∧ s.width ≤ row.toNat) ∨ (r.op = 0x42 ∧ 6 < row.toNat) ∨ ((r.op = 0x50 ∨ r.op = 0x51) ∧ k = 3) := by
  fin_cases hr <;> simp [fieldOutOfRange, Instr.wellFormed, mixIndexOk, scratchBankOk]

theorem operandCheck_build (s : State) (x : Word) : operandCheck (r.build k sel row) x s =
    if r.op = 0x20 ∧ x.getLsbD 0 = false then some .even
    else if r.op = 0x12 ∧ s.max < x then some .range
    else if (r.op = 0x52 ∨ r.op = 0x53) ∧ ¬ (1 ≤ x ∧ x ≤ 64) then some .field
    else none := by
  fin_cases hr <;> simp [operandCheck_modinv, operandCheck_size] <;> rfl

end

theorem specDecode_illegal {v : Word} (s : State) (h : opField v ∉ legalOpcodes) : specDecode s v = some .illegal :=
  if_pos h

section

variable {v : Word} {r : OpcodeRow} (s : State) (hr : r ∈ opcodeTable) (hop : r.op = opField v)

include hr hop

theorem specDecode_reserved (hu : v &&& ~~~(0xFF ||| r.used) ≠ 0) : specDecode s v = some .reserved := by
  have hlegal : opField v ∈ legalOpcodes := hop ▸ List.mem_map_of_mem hr
  rw [used_eq r hr, hop] at hu
  exact (if_neg (not_not.mpr hlegal)).trans (if_pos hu)

/-- Past the decoder's checks `decode(v)` is the model's `check` of the command the row makes. -/
theorem specDecode_build (hu : v &&& ~~~(0xFF ||| r.used) = 0) :
    specDecode s v = check (r.build (kField v) (sField v) (rowField v)) s.operand s := by
  have hlegal : opField v ∈ legalOpcodes := hop ▸ List.mem_map_of_mem hr
  rw [used_eq r hr, hop] at hu
  refine (if_neg (not_not.mpr hlegal)).trans ((if_neg (not_not.mpr hu)).trans ?_)
  rw [check, operandCheck_build hr, needsReady_build hr, hop]
  simp only [fieldOutOfRange_build hr, hop, Bool.and_eq_true, Bool.not_eq_true']
  rfl

end

/-- Settles O7: check by check, by the row of the word's opcode. -/
theorem commandWriteFollowsTheDecodeOrder : Obligations.CommandWriteFollowsTheDecodeOrder := by
  intro s v hb
  by_cases hop : opField v ∈ legalOpcodes
  · obtain ⟨r, hmem, hr⟩ := exists_opcodeRow? hop
    have hop := (opcodeRow?_some_iff.mp hr).2
    by_cases hu : v &&& ~~~(0xFF ||| r.used) = 0
    · rw [specDecode_build s hmem hop hu]
      have hd := decodeWord_build hr hu
      cases hc : check (r.build (kField v) (sField v) (rowField v)) s.operand s with
      | some e => exact issue_rejected hb hd hc
      | none => exact issue_accepted hb hd hc
    · rw [specDecode_reserved s hmem hop hu]
      exact issue_undecoded hb (decodeWord_reserved hr hu)
  · rw [specDecode_illegal s hop]
    exact issue_undecoded hb (decodeWord_illegal_iff.mpr hop)

end Sys2Proof.Machine
end

section
/-! PROOFS. The step on the latched command (30_encoding.md R111, R112, R114): what it reads, that it commits once its
draws are there, and which word it runs. -/

namespace Sys2Proof.Machine

open Sys2Proof Sys2Proof.Claims

/-! ### The live OPERAND -/

/-- The host's write of `y` to OPERAND. -/
def State.withOperand (s : State) (y : Word) : State := { s with operand := y }

section

variable (s : State) (y : Word)

theorem check_withOperand (i : Instr) (x : Word) : check i x (s.withOperand y) = check i x s := check_congr rfl rfl rfl

/-- A latched run ignores OPERAND where its body does. -/
theorem runLatched_withOperand (i : Instr) {body body' : Word → Out}
    (h : ∀ x, body' x = mapNext (·.withOperand y) (body x)) :
    runLatched i (s.withOperand y) body' = mapNext (·.withOperand y) (runLatched i s body) := by
  cases hp : s.pend with
  | none => rw [runLatched_empty hp, runLatched_empty (s := s.withOperand y) hp]; rfl
  | some p =>
    have hp' : (s.withOperand y).pend = some p := hp
    cases hc : check i p.operand s with
    | some e =>
      rw [runLatched_rejected hp hc, runLatched_rejected hp' ((check_withOperand s y i _).trans hc)]
      rfl
    | none => rw [runLatched_accepted hp hc, runLatched_accepted hp' ((check_withOperand s y i _).trans hc), h]

theorem withDraws_withOperand (need : Nat) {body body' : List Word → State → Out}
    (h : ∀ ds u, body' ds (u.withOperand y) = mapNext (·.withOperand y) (body ds u)) :
    withDraws need (s.withOperand y) body' = mapNext (·.withOperand y) (withDraws need s body) := by
  by_cases hlen : s.taken.length + s.entropy.length < need
  · rw [withDraws_short hlen, withDraws_short (s := s.withOperand y) hlen]
    rfl
  · rw [Nat.not_lt] at hlen
    rw [withDraws_enough hlen, withDraws_enough (s := s.withOperand y) hlen, ← h]
    rfl

end

theorem setScratch_withOperand (s : State) (y : Word) (b : Nat) (m : BitMatrix) :
    (s.withOperand y).setScratch b m = (s.setScratch b m).withOperand y := rfl

theorem commit_withOperand (s : State) (y c : Word) : (s.withOperand y).commit c = (s.commit c).withOperand y := rfl

/-! ### The meaning of a command on its latched operand -/

theorem withDraws_goesOn {need : Nat} {s : State} {body : List Word → State → Out} (hbody : ∀ ds u, GoesOn (body ds u)) :
    GoesOn (withDraws need s body) := by
  unfold withDraws
  split
  · exact ⟨_, rfl⟩
  · exact hbody _ _

/-- `body` is what `exec` does with the latched operand of `i` once the checks hold: it goes on and does not read OPERAND
(30_encoding.md R111). -/
structure Meaning (i : Instr) (body : State → Word → Out) : Prop where
  exec_eq : ∀ s, exec i s = runLatched i s (body s)
  goesOn : ∀ s x, GoesOn (body s x)
  withOperand : ∀ s y x, body (s.withOperand y) x = mapNext (·.withOperand y) (body s x)

/-- The meaning of a command that answers one next state, whatever it finds. -/
theorem Meaning.ofNext {i : Instr} {f : State → Word → State} (h : ∀ s, exec i s = runLatched i s fun x => .next (f s x))
    (hf : ∀ s y x, f (s.withOperand y) x = (f s x).withOperand y) : Meaning i fun s x => .next (f s x) :=
  ⟨h, fun _ _ => ⟨_, rfl⟩, fun s y x => congrArg Host.Outcome.next (hf s y x)⟩

/-- The meaning of a command that draws. -/
theorem Meaning.ofDraws {i : Instr} {need : Word → Nat} {f : Word → List Word → State → State}
    (h : ∀ s, exec i s = runLatched i s fun x => withDraws (need x) s fun ds u => .next (f x ds u))
    (hf : ∀ x ds u y, f x ds (u.withOperand y) = (f x ds u).withOperand y) :
    Meaning i fun s x => withDraws (need x) s fun ds u => .next (f x ds u) where
  exec_eq := h
  goesOn _ _ := withDraws_goesOn fun _ _ => ⟨_, rfl⟩
  withOperand s y x := withDraws_withOperand s y _ fun ds u => congrArg Host.Outcome.next (hf x ds u y)

/-- Every command has a meaning. -/
theorem exists_meaning (i : Instr) : ∃ body, Meaning i body := by
  cases i with
  | nop => exact ⟨_, .ofNext exec_nop fun _ _ _ => rfl⟩
  | clrerr => exact ⟨_, .ofNext exec_clrerr fun _ _ _ => rfl⟩
  | init => exact ⟨_, .ofDraws exec_init fun _ _ _ _ => rfl⟩
  | next =>
    refine ⟨_, exec_next, fun s x => ?_, fun s y x => ?_⟩
    · cases s.walkFwd s.position <;> exact ⟨_, rfl⟩
    · have hwalk : (s.withOperand y).walkFwd (s.withOperand y).position = s.walkFwd s.position := rfl
      rw [hwalk]
      cases s.walkFwd s.position <;> rfl
  | undo =>
    refine ⟨_, exec_undo, fun s x => ?_, fun s y x => ?_⟩
    · cases s.walkInv x <;> exact ⟨_, rfl⟩
    · have hwalk : (s.withOperand y).walkInv x = s.walkInv x := rfl
      rw [hwalk]
      cases s.walkInv x <;> rfl
  | modinv => exact ⟨_, .ofNext exec_modinv fun _ _ _ => rfl⟩
  | mixFwd => exact ⟨_, .ofNext exec_mixFwd fun _ _ _ => rfl⟩
  | mixInv => exact ⟨_, .ofNext exec_mixInv fun _ _ _ => rfl⟩
  | stageFwd k => exact ⟨_, .ofNext (exec_stageFwd k) fun _ _ _ => rfl⟩
  | stageInv k => exact ⟨_, .ofNext (exec_stageInv k) fun _ _ _ => rfl⟩
  | matvec k sel => exact ⟨_, .ofNext (exec_matvec k sel) fun _ _ _ => rfl⟩
  | passFwd => exact ⟨_, .ofNext exec_passFwd fun _ _ _ => rfl⟩
  | passInv => exact ⟨_, .ofNext exec_passInv fun _ _ _ => rfl⟩
  | readRow k sel row => exact ⟨_, .ofNext (exec_readRow k sel row) fun _ _ _ => rfl⟩
  | readMult k sel => exact ⟨_, .ofNext (exec_readMult k sel) fun _ _ _ => rfl⟩
  | readMixc row => exact ⟨_, .ofNext (exec_readMixc row) fun _ _ _ => rfl⟩
  | scrWr k row => exact ⟨_, .ofNext (exec_scrWr k row) fun _ _ _ => rfl⟩
  | scrRd k row => exact ⟨_, .ofNext (exec_scrRd k row) fun _ _ _ => rfl⟩
  | matmul => exact ⟨_, .ofNext exec_matmul fun _ _ _ => rfl⟩
  | genmat => exact ⟨_, .ofDraws exec_genmat fun _ _ _ _ => by
      rw [setScratch_withOperand, setScratch_withOperand, commit_withOperand]⟩

/-- Settles O10: a command is the latched run of its meaning, and neither the checks nor the meaning reads OPERAND. -/
theorem executionIgnoresLiveOperand : Obligations.ExecutionIgnoresLiveOperand := by
  intro i s y
  obtain ⟨body, hm⟩ := exists_meaning i
  calc exec i (s.withOperand y)
    _ = runLatched i (s.withOperand y) (body (s.withOperand y)) := hm.exec_eq _
    _ = mapNext (·.withOperand y) (runLatched i s (body s)) := runLatched_withOperand s y i (hm.withOperand s y)
    _ = mapNext (·.withOperand y) (exec i s) := by rw [hm.exec_eq]

/-- A command that stands in the latch goes on (60_exceptions.md R327). -/
theorem exec_goesOn {s : State} {p : Pending} (hp : s.pend = some p) (i : Instr) : GoesOn (exec i s) := by
  obtain ⟨body, hm⟩ := exists_meaning i
  rw [hm.exec_eq]
  cases hc : check i p.operand s with
  | some e => exact ⟨_, runLatched_rejected hp hc⟩
  | none =>
    rw [runLatched_accepted hp hc]
    exact hm.goesOn s p.operand

/-! ### wait -/

theorem State.Writes.inputs_eq {s u : State} {x c : Word} {i : Instr} (hw : s.Writes x i u c) : u.inputs = s.inputs := by
  cases hw <;> rfl

/-- With the invariant and its draws at hand a latched command commits in one step of the block agent (R112). -/
theorem exec_commits {s : State} {p : Pending} {i : Instr} (hs : s.Inv) (hp : s.pend = some p)
    (hd : decodeWord p.word = .instr i) (hdraws : drawsNeeded i p.operand ≤ s.taken.length + s.entropy.length) :
    ∃ u c, exec i s = .next (u.commit c) ∧ s.Writes p.operand i u c := by
  obtain ⟨t, ht⟩ := exec_goesOn hp i
  obtain ⟨q, hq, hm⟩ := exec_move ht
  obtain rfl : p = q := Option.some.inj (hp.symm.trans hq)
  have hcheck := (hs.latch.of_pend hp hd).1
  cases hm with
  | abort e he => exact absurd (he.symm.trans hcheck) (Option.some_ne_none e)
  | wait hc hlen => omega
  | loop hc hi => exact absurd hi (hs.not_loop hc)
  | commit u c hc hw => exact ⟨u, c, ht, hw⟩

/-- The turn of the block agent in which that command commits. -/
theorem blockTurn_commits {s : State} {p : Pending} {i : Instr} {ins : List Input} (hs : s.Inv)
    (hin : s.inputs = .block :: ins) (hp : s.pend = some p) (hd : decodeWord p.word = .instr i)
    (hdraws : drawsNeeded i p.operand ≤ s.taken.length + s.entropy.length) :
    ∃ (u : State) (c : Word), step s = .next (u.commit c) ∧ u.inputs = ins := by
  obtain ⟨u, c, hexec, hw⟩ := exec_commits (hs.withInputs ins) hp hd hdraws
  exact ⟨u, c, (step_block hin).trans ((blockStep_exec (s := { s with inputs := ins }) hp hd).trans hexec), hw.inputs_eq⟩

/-- Settles O60: the first poll finds BUSY and gives the block agent the turn in which the command commits, and the
second poll finds BUSY cleared. -/
theorem waitEndsOnceTheDrawsAreOffered : Obligations.WaitEndsOnceTheDrawsAreOffered := by
  intro s p i rest hs hin hp hd hdraws
  have hbusy : s.status.busy = true := by rw [hs.latch.busy_iff, hp, Option.isSome_some]
  have hpoll : step s = .next { s with
      resp := some (.data s.status.toWord), inputs := .block :: .wait :: rest } := by
    rw [step_wait hin, pollRound_eq, if_pos hbusy]
  obtain ⟨u, c, hturn, hu⟩ := blockTurn_commits (everyStepKeepsTheInvariant s _ hs hpoll) rfl hp hd hdraws
  have hlast : step (u.commit c) = _ := step_wait hu
  rw [pollRound_eq] at hlast
  refine ⟨_, _, _, hpoll, hturn, hlast, rfl, rfl, rfl, rfl, rfl, ?_⟩
  rw [bit_status_toWord, if_pos rfl]
  rfl

/-! ### The word the step runs -/

/-- The bus stores 64 bits as the byte lanes of their word (20_memory.md R74). -/
theorem storedBytes_word (w : Nat) : storedBytes 64 w = lanes (BitVec.ofNat 64 w) := rfl

theorem tableWord_word (w : Nat) : tableWord 64 w = BitVec.ofNat 64 w := by
  rw [tableWord, storedBytes_word, wordOfLanes_lanes]

theorem decodeWord_of_tableWord {w : Nat} {i : Instr} (h : decodeTableWord 64 w = some i) :
    decodeWord (BitVec.ofNat 64 w) = .instr i := by
  rw [decodeTableWord, storedBytes_word, decodeBytes_of_length (length_lanes _), wordOfLanes_lanes] at h
  cases hd : decodeWord (BitVec.ofNat 64 w) with
  | rejected e => rw [hd] at h; cases h
  | instr j => rw [hd] at h; cases h; rfl

/-- Settles O50: the block agent's turn runs what the latched word decodes to, and the host's word stands in the latch as
its 64 bits. -/
theorem stepRunsTheLatchedCommand : Obligations.StepRunsTheLatchedCommand := by
  refine ⟨fun s p i hin hp hd => (step_nil hin).trans (blockStep_exec hp hd),
    fun s p i rest hin hp hd => (step_block hin).trans (blockStep_exec hp hd), fun s w i h => ?_⟩
  rw [State.withFetchWord, tableWord_word, step_block rfl]
  exact blockStep_exec rfl (decodeWord_of_tableWord h)

end Sys2Proof.Machine
end

section
/-! PROOFS. The words of one command and how the idle block answers them (30_encoding.md R105, R107, R110), for any row of
the opcode table and any command. -/

namespace Sys2Proof.Machine

open Sys2Proof Sys2Proof.Claims

theorem opField_encode_build {r : OpcodeRow} (hr : r ∈ opcodeTable) (k : BitVec 2) (sel : Select) (row : BitVec 6) :
    opField (encode (r.build k sel row)) = r.op := by
  rw [encode_build hr, opField_commandWord]

/-- A word whose low byte is a row's match word has the row's opcode. -/
theorem op_eq_of_and_opBits {r : OpcodeRow} (hr : r ∈ opcodeTable) {v : Word} (h : v &&& 0xFF = r.matchWord) :
    r.op = opField v := by
  obtain ⟨-, -, -, hop, -⟩ := mask_facts r hr
  calc r.op
    _ = opField (v &&& 0xFF) := by rw [h, hop]
    _ = opField v &&& opField 0xFF := BitVec.extractLsb'_and
    _ = opField v := BitVec.and_allOnes

/-- A row's command is decoded from the words that match the row; a word with its opcode that does not match has a bit
outside OP and the used fields. -/
theorem commandWords_of_row {r : OpcodeRow} (hr : r ∈ opcodeTable) :
    CommandWords r.matchWord r.mask fun v => r.build (kField v) (sField v) (rowField v) := by
  refine ⟨fun v => ?_, fun s v hb hop hne => ?_⟩
  · rw [and_mask_eq_matchWord_iff hr]
    constructor
    · intro h
      have hop : opField v = r.op := by
        rw [decodeWord_eq_instr_iff.mp h, opField_encode_build hr]
      refine ⟨hop.symm, ?_⟩
      rw [used_eq r hr, ← hop]
      exact unusedBits_eq_zero_of_decode h
    · rintro ⟨hop, hu⟩
      exact decodeWord_build (opcodeRow?_some_iff.mpr ⟨hr, hop⟩) hu
  · have hop := op_eq_of_and_opBits hr hop
    exact issue_undecoded hb (decodeWord_reserved (opcodeRow?_some_iff.mpr ⟨hr, hop⟩)
      fun hu => hne ((and_mask_eq_matchWord_iff hr v).mpr ⟨hop, hu⟩))

/-- The idle block answers a command's word as the checks on the live OPERAND do. -/
theorem answeredWith_of_check {i : Instr} {answer : State → Option ErrCode}
    (h : ∀ s, check i s.operand s = answer s) : AnsweredWith i answer := by
  intro s hb
  have hd : decodeWord (encode i) = .instr i := decodeWord_eq_instr_iff.mpr rfl
  cases ha : answer s with
  | some e => exact issue_rejected hb hd ((h s).trans ha)
  | none => exact issue_accepted hb hd ((h s).trans ha)

end Sys2Proof.Machine
end

section
/-! PROOFS. The modular inverse and MODINV (41_modinv.md). -/

namespace Sys2Proof.Machine

open Sys2Proof Sys2Proof.Claims

/-! ### The Newton loop's fuel and count -/

theorem modinvLoop_count_le (x y : Word) (fuel it : Nat) : (modinvLoop x fuel y it).2 ≤ it + fuel := by
  induction fuel generalizing y it with
  | zero => exact le_rfl
  | succ fuel ih =>
    by_cases h : x * y = 1
    · rw [modinvLoop_stop h]
      exact Nat.le_add_right it _
    · rw [modinvLoop_update h, Nat.add_comm fuel, ← Nat.add_assoc]
      exact ih _ _

/-- A loop that ended with the inverse gives the same answer under any larger bound on its updates. -/
theorem modinvLoop_fuel_add {x y : Word} {fuel it : Nat} (h : x * (modinvLoop x fuel y it).1 = 1) (extra : Nat) :
    modinvLoop x (fuel + extra) y it = modinvLoop x fuel y it := by
  induction fuel generalizing y it with
  | zero => exact modinvLoop_stop h
  | succ fuel ih =>
    by_cases hy : x * y = 1
    · rw [modinvLoop_stop hy, modinvLoop_stop hy]
    · rw [modinvLoop_update hy] at h
      rw [Nat.add_right_comm, modinvLoop_update hy, modinvLoop_update hy, ih h]

section

variable {x : Word} (hx : bit x 0 = true)

include hx

/-- Five updates are enough: `2^(3·2^5)` divides the error by then (41_modinv.md R143). -/
theorem modinvLoop_eq_five {fuel : Nat} (hf : 5 ≤ fuel) : modinvLoop x fuel x 0 = modinvLoop x 5 x 0 := by
  have hfive : x * (modinvLoop x 5 x 0).1 = 1 := modinvLoop_inverse (eight_dvd_one_sub_square hx) (by decide)
  obtain ⟨extra, rfl⟩ := Nat.exists_eq_add_of_le hf
  exact modinvLoop_fuel_add hfive extra

theorem modinv_eq_five : modinv x = modinvLoop x 5 x 0 := modinvLoop_eq_five hx (by decide)

theorem modinv_count_le : (modinv x).2 ≤ 5 := by
  rw [modinv_eq_five hx, ← Nat.zero_add 5]
  exact modinvLoop_count_le x x 5 0

theorem eq_modinv {y : Word} (hy : x * y = 1) : y = (modinv x).1 :=
  left_inv_eq_right_inv (BitVec.mul_comm y x ▸ hy) (mul_modinv hx)

end

/-- The worked trace of R147. -/
theorem modinv_three : modinv 3 = (0xAAAAAAAAAAAAAAAB, 5) := by decide

/-- Settles O31: each update squares the error, which five of them bring to 0, and an inverse is unique. -/
theorem modinvIsTheUniqueInverseWithinFive : Obligations.ModinvIsTheUniqueInverseWithinFive :=
  ⟨fun _ hx => ⟨mul_modinv hx, fun _ => eq_modinv hx, modinv_count_le hx,
    fun _ hf => (modinvLoop_eq_five hx hf).trans (modinv_eq_five hx).symm⟩,
    congrArg Prod.snd modinv_three⟩

/-! ### The command -/

theorem check_modinv (x : Word) (s : State) : check .modinv x s = if x.getLsbD 0 then none else some .even := rfl

/-- MODINV on an odd operand commits the inverse and the number of updates (41_modinv.md R145). -/
theorem exec_modinv_odd {s : State} {p : Pending} (hp : s.pend = some p) (hx : p.operand.getLsbD 0 = true) :
    exec .modinv s = .next (done s (modinv p.operand).1 (BitVec.ofNat 64 (modinv p.operand).2)) := by
  have hc : check .modinv p.operand s = none := by rw [check_modinv, if_pos hx]
  exact (exec_modinv s).trans (runLatched_eq hp hc rfl)

/-- Settles O13: the row of the opcode 0x20, its one check and its commit, with the inverse and the bound of O31. -/
theorem modinvCommand : Obligations.ModinvCommand := by
  have hrow : (⟨"MODINV", 0x20, 0, fun _ _ _ => .modinv⟩ : OpcodeRow) ∈ opcodeTable := by
    simp [opcodeTable, opcodeRowsControl]
  exact ⟨commandWords_of_row hrow, answeredWith_of_check fun s => check_modinv s.operand s,
    fun _ _ hp hx => ⟨_, _, exec_modinv_odd hp hx, rfl, mul_modinv hx, modinv_count_le hx⟩,
    modinvLoop_stop (by decide), modinvLoop_stop (by decide), modinvLoop_stop (by decide), modinv_three⟩

end Sys2Proof.Machine
end

section
/-! PROOFS. The matrix unit's mathematics (42_gf2_matrix.md R160 to R170): the product entry by entry and its laws, the
triangular inverses, and the generated matrices. -/

namespace Sys2Proof.Machine

open Sys2Proof Sys2Proof.Claims

/-! ### The product -/

/-- Bit `i` of an XOR sum is the parity of the selected terms' bits `i`. -/
theorem bit_xorOver (sel : Word) (term : Nat → Word) (n i : Nat) :
    bit (xorOver sel term n) i = parity (fun j => bit sel j && bit (term j) i) n := by
  induction n with
  | zero => simp [parity]
  | succ n ih => rw [bit_xorOver_succ, ih, parity]

theorem rowAt_multiply_of_le (a b : BitMatrix) {n i : Nat} (hi : n ≤ i) : rowAt (multiply a b n) i = 0 := by
  simp [multiply, Nat.not_lt.mpr hi]

/-- Settles O32: a row below `n` is an XOR sum of rows masked to `n` bits, and the other rows are 0. -/
theorem multiplyEntries : Obligations.MultiplyEntries := by
  intro a b n _ hn
  refine ⟨multiply_wfSize hn a b, fun i k => ?_⟩
  by_cases hi : i < n
  · rw [rowAt_multiply a b hn hi, ← xorOver_and, bit_and, bit_mask hn, bit_xorOver, decide_eq_true hi, Bool.true_and,
      Bool.and_comm]
  · simp [rowAt_multiply_of_le a b (Nat.not_lt.mp hi), hi]

theorem multiply_assoc {n : Nat} (hn : n ≤ 64) (a b c : BitMatrix) :
    multiply (multiply a b n) c n = multiply a (multiply b c n) n :=
  eq_of_entries_eq hn (multiply_wfSize hn _ _) (multiply_wfSize hn _ _) (by
    simp only [entries_multiply hn, Matrix.mul_assoc])

theorem identity_multiply {n : Nat} (hn : n ≤ 64) {b : BitMatrix} (hb : b.wfSize n) : multiply (identity n) b n = b :=
  eq_of_entries_eq hn (multiply_wfSize hn _ _) hb (by rw [entries_multiply hn, entries_identity hn, Matrix.one_mul])

theorem multiply_identity {n : Nat} (hn : n ≤ 64) {a : BitMatrix} (ha : a.wfSize n) : multiply a (identity n) n = a :=
  eq_of_entries_eq hn (multiply_wfSize hn _ _) ha (by rw [entries_multiply hn, entries_identity hn, Matrix.mul_one])

/-- `(a·b)·(b'·a') = I` where `b·b' = I` and `a·a' = I`. -/
theorem multiply_multiply_inverses {n : Nat} (hn : n ≤ 64) {a a' b b' : BitMatrix} (ha : a.wfSize n)
    (haa : multiply a a' n = identity n) (hbb : multiply b b' n = identity n) :
    multiply (multiply a b n) (multiply b' a' n) n = identity n := by
  rw [multiply_assoc hn, ← multiply_assoc hn b, hbb, ← multiply_assoc hn a, multiply_identity hn ha, haa]

/-- The matrix with the one bit (0, 1) set. -/
def upperCorner : BitMatrix := BitMatrix.zero.set 0 2

/-- The matrix with the one bit (1, 0) set. -/
def lowerCorner : BitMatrix := BitMatrix.zero.set 1 1

/-- The two orders of the product set the bits (0, 0) and (1, 1). -/
theorem multiply_corners_ne : multiply upperCorner lowerCorner 2 ≠ multiply lowerCorner upperCorner 2 := fun h =>
  absurd (congrArg (rowAt · 0) h) (by decide)

/-- Settles O33: the laws of the product of matrices over GF(2), and the corner matrices, which do not commute. -/
theorem multiplierLaws : Obligations.MultiplierLaws :=
  ⟨fun _ _ hn a b c ha hb _ => ⟨multiply_assoc hn a b c, identity_multiply hn hb, multiply_identity hn ha⟩,
    ⟨2, upperCorner, lowerCorner, by decide, by decide, by decide, by decide, multiply_corners_ne⟩,
    fun _ _ hn _ _ _ _ ha _ _ hb' haa ha'a hbb hb'b =>
      ⟨multiply_multiply_inverses hn ha haa hbb, multiply_multiply_inverses hn hb' hb'b ha'a⟩⟩

/-! ### The triangular inverses -/

theorem rowAt_invLower_of_le (l : BitMatrix) {n i : Nat} (hi : n ≤ i) : rowAt (invLower l n) i = 0 := by
  have hrow : (invLowerRows l n).getD i 0 = 0 := List.getD_eq_default _ _ (by rwa [length_invLowerRows])
  simp only [invLower, rowAt_ofFn, hrow, dite_eq_ite, ite_self]

theorem length_invUpperRows (u : BitMatrix) (n k : Nat) : (invUpperRows u n k).length = k := by
  induction k with
  | zero => rfl
  | succ k ih => rw [invUpperRows, List.length_cons, ih]

theorem rowAt_invUpper_of_le (u : BitMatrix) {n i : Nat} (hi : n ≤ i) : rowAt (invUpper u n) i = 0 := by
  have hrow : (invUpperRows u n n).getD i 0 = 0 := List.getD_eq_default _ _ (by rwa [length_invUpperRows])
  simp only [invUpper, rowAt_ofFn, hrow, dite_eq_ite, ite_self]

/-- An XOR sum has a bit clear that is clear in all its terms. -/
theorem bit_xorOver_eq_false {sel : Word} {term : Nat → Word} {n k : Nat} (h : ∀ j < n, bit (term j) k = false) :
    bit (xorOver sel term n) k = false := by
  induction n with
  | zero => simp
  | succ n ih =>
    rw [bit_xorOver_succ, ih fun j hj => h j (by omega), h n (by omega), Bool.and_false, Bool.xor_false]

/-- One substitution leaves the unit vector's bit where the bit is clear in all the rows it adds. -/
theorem bit_unitVec_xor_xorOver {sel : Word} {term : Nat → Word} {n i k : Nat} (hi : i < 64)
    (h : ∀ j < n, bit (term j) k = false) : bit (unitVec i ^^^ xorOver sel term n) k = decide (k = i) := by
  rw [bit_xor, bit_xorOver_eq_false h, Bool.xor_false, bit_unitVec, ← Bool.decide_and, decide_eq_decide]
  omega

/-- On and above the diagonal `inv_lower` has the bits of the identity, by the rows before it. -/
theorem bit_invLower_of_le (l : BitMatrix) {n i k : Nat} (hn : n ≤ 64) (hi : i < n) (hk : i ≤ k) :
    bit (rowAt (invLower l n) i) k = decide (k = i) := by
  induction i using Nat.strong_induction_on with
  | _ i ih =>
    rw [rowAt_invLower l hn hi]
    refine bit_unitVec_xor_xorOver (by omega) fun j hj => ?_
    rw [ih j hj (by omega) (by omega), decide_eq_false (by omega)]

/-- On and below the diagonal, and from column `n` on, `inv_upper` has the identity's bits, by the rows after it. -/
theorem bit_invUpper_of_le (u : BitMatrix) {n i k : Nat} (hn : n ≤ 64) (hi : i < n) (hk : k ≤ i ∨ n ≤ k) :
    bit (rowAt (invUpper u n) i) k = decide (k = i) := by
  induction hd : n - i using Nat.strong_induction_on generalizing i with
  | _ d ih =>
    rw [rowAt_invUpper u hn hi]
    refine bit_unitVec_xor_xorOver (by omega) fun j hj => ?_
    by_cases hij : i < j
    · rw [if_pos hij, ih (n - j) (by omega) hj (by omega) rfl, decide_eq_false (by omega)]
    · rw [if_neg hij]
      exact BitVec.getLsbD_zero

theorem invLower_unitLower (l : BitMatrix) {n : Nat} (hn : n ≤ 64) : UnitLower (invLower l n) n := by
  refine ⟨(wfSize_iff hn).mpr fun i j hb => ?_, fun i hi => ⟨?_, fun j hj => ?_⟩⟩
  · by_cases hi : i < n
    · refine ⟨hi, Nat.not_le.mp fun hj => ?_⟩
      rw [bit_invLower_of_le l hn hi (by omega), decide_eq_true_eq] at hb
      omega
    · simp [rowAt_invLower_of_le l (Nat.not_lt.mp hi)] at hb
  · rw [bit_invLower_of_le l hn hi le_rfl, decide_eq_true rfl]
  · rw [bit_invLower_of_le l hn hi hj.le, decide_eq_false hj.ne']

theorem invUpper_unitUpper (u : BitMatrix) {n : Nat} (hn : n ≤ 64) : UnitUpper (invUpper u n) n := by
  refine ⟨(wfSize_iff hn).mpr fun i j hb => ?_, fun i hi => ⟨?_, fun j hj => ?_⟩⟩
  · by_cases hi : i < n
    · refine ⟨hi, Nat.not_le.mp fun hj => ?_⟩
      rw [bit_invUpper_of_le u hn hi (.inr hj), decide_eq_true_eq] at hb
      omega
    · simp [rowAt_invUpper_of_le u (Nat.not_lt.mp hi)] at hb
  · rw [bit_invUpper_of_le u hn hi (.inl le_rfl), decide_eq_true rfl]
  · rw [bit_invUpper_of_le u hn hi (.inl hj.le), decide_eq_false hj.ne]

/-- Settles O34: by the row rule, which a product with `L` turns into the identity. -/
theorem lowerInverseByForwardSubstitution : Obligations.LowerInverseByForwardSubstitution := fun l _ _ hn hl =>
  ⟨fun _ => rowAt_invLower l hn, fun _ => rowAt_invLower_of_le l, invLower_unitLower l hn,
    multiply_eq_identity hn (entries_mul_invLower hn hl)⟩

/-- Settles O35: by the row rule, and because a right inverse of a square matrix is its inverse on both sides. -/
theorem upperInverseByBackSubstitution : Obligations.UpperInverseByBackSubstitution := by
  intro u n _ hn hu
  have hright := entries_mul_invUpper hn hu
  have hleft := mul_eq_one_comm.mp hright
  have hshape := invUpper_unitUpper u hn
  refine ⟨fun _ => rowAt_invUpper u hn, fun _ => rowAt_invUpper_of_le u, hshape, multiply_eq_identity hn hright,
    multiply_eq_identity hn hleft, fun r hr h => ?_⟩
  have hur : entries n u * entries n r = 1 := by rw [← entries_multiply hn, h, entries_identity hn]
  exact eq_of_entries_eq hn hr hshape.1 (left_inv_eq_right_inv hleft hur).symm

/-! ### The factors -/

theorem rowAt_lowerFactor_of_le (r : Nat → Word) {n i : Nat} (hi : n ≤ i) : rowAt (lowerFactor n r) i = 0 := by
  simp [lowerFactor, Nat.not_lt.mpr hi]

theorem rowAt_upperFactor_of_le (r : Nat → Word) {n i : Nat} (hi : n ≤ i) : rowAt (upperFactor n r) i = 0 := by
  simp [upperFactor, Nat.not_lt.mpr hi]

theorem rowAt_lowerFactor (r : Nat → Word) {n i : Nat} (hn : n ≤ 64) (hi : i < n) :
    rowAt (lowerFactor n r) i = (r i &&& (unitVec i - 1)) ||| unitVec i := by
  rw [lowerFactor, rowAt_ofFn, dif_pos (by omega), if_pos hi]

theorem rowAt_upperFactor (r : Nat → Word) {n i : Nat} (hn : n ≤ 64) (hi : i < n) :
    rowAt (upperFactor n r) i = (r i &&& mask n &&& ~~~(unitVec i ||| (unitVec i - 1))) ||| unitVec i := by
  rw [upperFactor, rowAt_ofFn, dif_pos (by omega), if_pos hi]

theorem bit_lowerFactor_eq_ite (r : Nat → Word) {n i : Nat} (hn : n ≤ 64) (hi : i < n) (j : Nat) :
    bit (rowAt (lowerFactor n r) i) j = if j < i then bit (r i) j else decide (j = i) := by
  rw [bit_lowerFactor hn, decide_eq_true hi, Bool.true_and]
  by_cases hj : j < i
  · simp [hj, hj.ne]
  · simp [hj]

theorem bit_upperFactor_eq_ite (r : Nat → Word) {n i j : Nat} (hn : n ≤ 64) (hi : i < n) (hj : j < n) :
    bit (rowAt (upperFactor n r) i) j = if i < j then bit (r i) j else decide (j = i) := by
  rw [bit_upperFactor hn, decide_eq_true hi, Bool.true_and]
  by_cases hij : i < j
  · simp [hij, hj, hij.ne']
  · simp [hij]

/-- No column lies above the last row. -/
theorem rowAt_upperFactor_last (r : Nat → Word) : rowAt (upperFactor 64 r) 63 = unitVec 63 := by
  refine BitVec.eq_of_getLsbD_eq fun j hj => ?_
  rw [← bit, ← bit, bit_upperFactor_eq_ite r le_rfl (by decide) hj, if_neg (by omega), bit_unitVec, decide_eq_true hj,
    Bool.true_and, decide_eq_decide]
  exact eq_comm

/-- Settles O36: bit by bit from the rows of R166. -/
theorem factorEntriesComeFromDisjointDrawBits : Obligations.FactorEntriesComeFromDisjointDrawBits :=
  ⟨fun _ r _ hn =>
    ⟨fun _ hi j hj => ⟨bit_lowerFactor_eq_ite r hn hi j, bit_upperFactor_eq_ite r hn hi hj⟩,
      fun _ hi => ⟨rowAt_lowerFactor_of_le r hi, rowAt_upperFactor_of_le r hi⟩,
      lowerFactor_unitLower hn r, upperFactor_unitUpper hn r,
      fun _ hi => ⟨rowAt_lowerFactor r hn hi, rowAt_upperFactor r hn hi⟩⟩,
    rowAt_upperFactor_last⟩

/-! ### The generated matrices -/

/-- A matrix of size 1 is its one diagonal bit. -/
theorem entries_one_eq_one {x : BitMatrix} (h : bit (rowAt x 0) 0 = true) : entries 1 x = 1 := by
  ext i j
  rw [Subsingleton.elim i 0, Subsingleton.elim j 0, entries_apply, Matrix.one_apply_eq]
  exact congrArg gf2 h

/-- The factors of size 1 have a 1 on the diagonal, whatever the draw (R170). -/
theorem entries_genMatrix_one (r : Nat → Word) : entries 1 (genMatrix 1 r) = 1 := by
  have hl := ((lowerFactor_unitLower (n := 1) (by decide) r).2 0 (by decide)).1
  have hu := ((upperFactor_unitUpper (n := 1) (by decide) r).2 0 (by decide)).1
  rw [genMatrix, entries_multiply (by decide), entries_one_eq_one hl, entries_one_eq_one hu, Matrix.one_mul]

theorem eq_identity_of_entries {x : BitMatrix} {n : Nat} (hn : n ≤ 64) (hx : x.wfSize n) (h : entries n x = 1) :
    x = identity n :=
  eq_of_entries_eq hn hx (identity_wfSize hn) (h.trans (entries_identity hn).symm)

theorem genMatrix_one (r : Nat → Word) : genMatrix 1 r = identity 1 :=
  eq_identity_of_entries (by decide) (genMatrix_wfSize (by decide) r) (entries_genMatrix_one r)

theorem genInverse_one (r : Nat → Word) : genInverse 1 r = identity 1 := by
  have h := genMatrix_mul_genInverse (n := 1) (by decide) r
  rw [entries_genMatrix_one, Matrix.one_mul] at h
  exact eq_identity_of_entries (by decide) (genInverse_wfSize (by decide) r) h

/-- Settles O37: `A·B·B⁻¹·A⁻¹ = I`, and the factors of size 1. -/
theorem generatedMatricesAreInvertible : Obligations.GeneratedMatricesAreInvertible :=
  ⟨fun _ r _ hn => ⟨multiply_genMatrix_genInverse hn r, multiply_genInverse_genMatrix hn r, genMatrix_wfSize hn r,
      genInverse_wfSize hn r⟩,
    fun r => ⟨genMatrix_one r, genInverse_one r⟩⟩

/-! ### The factors are known from their product -/

theorem unitLower_blockTriangular {l : BitMatrix} {n : Nat} (hl : UnitLower l n) :
    (entries n l).BlockTriangular OrderDual.toDual := fun i j hij => by
  rw [entries_apply, (hl.2 i i.isLt).2 j (OrderDual.toDual_lt_toDual.mp hij), gf2_false]

theorem unitUpper_blockTriangular {u : BitMatrix} {n : Nat} (hu : UnitUpper u n) : (entries n u).BlockTriangular id :=
  fun i j hij => by rw [entries_apply, (hu.2 i i.isLt).2 j hij, gf2_false]

/-- A matrix that is both lower and upper triangular is diagonal. -/
theorem isDiag_of_blockTriangular {n : Nat} {x : Matrix (Fin n) (Fin n) (ZMod 2)}
    (hl : x.BlockTriangular OrderDual.toDual) (hu : x.BlockTriangular id) : x.IsDiag := fun _ _ hij =>
  hij.lt_or_gt.elim (fun h => hl (OrderDual.toDual_lt_toDual.mpr h)) fun h => hu h

/-- Unit lower-triangular matrices that differ by a diagonal factor are equal. -/
theorem unitLower_entries_eq_of_isDiag {l l' : BitMatrix} {n : Nat} (hl : UnitLower l n) (hl' : UnitLower l' n)
    {x : Matrix (Fin n) (Fin n) (ZMod 2)} (hx : x.IsDiag) (h : entries n l = entries n l' * x) :
    entries n l = entries n l' := by
  have hone : x.diag = 1 := by
    funext i
    have hii := congrFun (congrFun h i) i
    rw [← hx.diagonal_diag, Matrix.mul_diagonal, entries_apply, entries_apply, (hl.2 i i.isLt).1, (hl'.2 i i.isLt).1,
      gf2_true, one_mul] at hii
    exact hii.symm
  rw [h, ← hx.diagonal_diag, hone, Pi.one_def, Matrix.diagonal_one, Matrix.mul_one]

/-- The product of a unit lower- and a unit upper-triangular matrix determines both (42_gf2_matrix.md R169): from
`L·U = L'·U'` the matrix `L'⁻¹·L = U'·U⁻¹` is triangular both ways. -/
theorem factors_eq_of_multiply_eq {l l' u u' : BitMatrix} {n : Nat} (hn : n ≤ 64) (hl : UnitLower l n)
    (hl' : UnitLower l' n) (hu : UnitUpper u n) (hu' : UnitUpper u' n) (h : multiply l u n = multiply l' u' n) :
    l = l' ∧ u = u' := by
  have hlu : entries n l * entries n u = entries n l' * entries n u' := by
    rw [← entries_multiply hn, h, entries_multiply hn]
  have hright := entries_mul_invLower hn hl'
  have hleft := mul_eq_one_comm.mp hright
  have hboth : entries n (invLower l' n) * entries n l = entries n u' * entries n (invUpper u n) :=
    calc entries n (invLower l' n) * entries n l
      _ = entries n (invLower l' n) * (entries n l * entries n u) * entries n (invUpper u n) := by
        rw [mul_assoc, mul_assoc, entries_mul_invUpper hn hu, mul_one]
      _ = entries n u' * entries n (invUpper u n) := by rw [hlu, ← mul_assoc, hleft, one_mul]
  have hlower := (unitLower_blockTriangular (invLower_unitLower l' hn)).mul (unitLower_blockTriangular hl)
  have hupper := (unitUpper_blockTriangular hu').mul (unitUpper_blockTriangular (invUpper_unitUpper u hn))
  rw [← hboth] at hupper
  have hdiag := isDiag_of_blockTriangular hlower hupper
  have hll : entries n l = entries n l' :=
    unitLower_entries_eq_of_isDiag hl hl' hdiag (by rw [← mul_assoc, hright, one_mul])
  have huu : entries n u = entries n u' := by
    rw [hll] at hlu
    rw [← one_mul (entries n u), ← hleft, mul_assoc, hlu, ← mul_assoc, hleft, one_mul]
  exact ⟨eq_of_entries_eq hn hl.1 hl'.1 hll, eq_of_entries_eq hn hu.1 hu'.1 huu⟩

/-- Equal factors come from draws that agree on every bit off the diagonal. -/
theorem bit_draw_eq_of_factors_eq {r q : Nat → Word} {n i j : Nat} (hn : n ≤ 64) (hi : i < n) (hj : j < n) (hij : i ≠ j)
    (hl : lowerFactor n r = lowerFactor n q) (hu : upperFactor n r = upperFactor n q) : bit (r i) j = bit (q i) j := by
  obtain hlt | hlt := hij.lt_or_gt
  · have h := congrArg (fun x => bit (rowAt x i) j) hu
    simpa only [bit_upperFactor_eq_ite _ hn hi hj, if_pos hlt] using h
  · have h := congrArg (fun x => bit (rowAt x i) j) hl
    simpa only [bit_lowerFactor_eq_ite _ hn hi, if_pos hlt] using h

/-- Settles O38: the factors show every bit of the draws off the diagonal, and their product determines them. -/
theorem distinctDrawsGiveDistinctMatrices : Obligations.DistinctDrawsGiveDistinctMatrices := by
  intro n r q _ hn
  have lower := lowerFactor_unitLower hn
  have upper := upperFactor_unitUpper hn
  refine ⟨fun ⟨i, hi, j, hj, hij, hne⟩ => ?_, lowerFactor n r, upperFactor n r, lower r, upper r, rfl⟩
  have hfactors : ¬ (lowerFactor n r = lowerFactor n q ∧ upperFactor n r = upperFactor n q) :=
    fun ⟨hl, hu⟩ => hne (bit_draw_eq_of_factors_eq hn hi hj hij hl hu)
  exact ⟨hfactors, fun h => hfactors (factors_eq_of_multiply_eq hn (lower r) (lower q) (upper r) (upper q) h)⟩

end Sys2Proof.Machine
end

section
/-! PROOFS. The scratch-bank and matrix commands (42_gf2_matrix.md R180 to R182, R186). -/

namespace Sys2Proof.Machine

open Sys2Proof Sys2Proof.Claims

/-! ### The words and the checks -/

/-- The words of the command of an opcode that the table lists. -/
theorem commandWords_of_opcode {op : BitVec 8} {r : OpcodeRow} (h : opcodeRow? op = some r) :
    CommandWords r.matchWord r.mask fun v => r.build (kField v) (sField v) (rowField v) :=
  commandWords_of_row (opcodeRow?_some_iff.mp h).1

/-- The one check of SCR_WR and SCR_RD is that of the bank. -/
theorem check_scratch {i : Instr} {k : BitVec 2} {row : BitVec 6} (hi : i = .scrWr k row ∨ i = .scrRd k row) (x : Word)
    (s : State) : check i x s = if k = 3 then some .field else none := by
  have hcheck : check i x s = if !scratchBankOk k then some .field else none := by rcases hi with rfl | rfl <;> rfl
  simp [hcheck, scratchBankOk]

/-- The one check of MATMUL and GENMAT is that of the size. -/
theorem check_size {i : Instr} (hi : i = .matmul ∨ i = .genmat) (x : Word) (s : State) :
    check i x s = if 1 ≤ x ∧ x ≤ 64 then none else some .field := by
  have hcheck : check i x s = operandCheck i x s := by rcases hi with rfl | rfl <;> rfl
  rw [hcheck, operandCheck_size hi, ite_not]

theorem check_size_ok {i : Instr} (hi : i = .matmul ∨ i = .genmat) {x : Word} (s : State) (h1 : 1 ≤ x) (h64 : x ≤ 64) :
    check i x s = none := (check_size hi x s).trans (if_pos ⟨h1, h64⟩)

/-! ### The scratch banks -/

theorem State.scratch_eq_getElem (s : State) (b : Fin 3) : s.scratch b.val = s.scr[b] := dif_pos b.isLt

/-- A row written and every other row (42_gf2_matrix.md R180). -/
theorem State.getElem_setScratchRow (s : State) (k : Nat) (row : BitVec 6) (v : Word) (b : Fin 3) (j : Fin 64) :
    (s.setScratchRow k row v).scr[b][j] = if b.val = k ∧ j.val = row.toNat then v else s.scr[b][j] := by
  by_cases hb : b.val = k
  · subst hb
    by_cases hj : j.val = row.toNat
    · simp [hj]
    · simp [hj, Vector.getElem_set_ne, Ne.symm hj, State.scratch_eq_getElem]
  · simp [hb, Vector.getElem_setIfInBounds_ne, Ne.symm hb]

/-! ### SCR_WR -/

theorem exec_scrWr_ok {s : State} {p : Pending} {k : BitVec 2} (row : BitVec 6) (hp : s.pend = some p) (hk : k ≠ 3) :
    exec (.scrWr k row) s = .next ((s.setScratchRow k.toNat row p.operand).commit 0) :=
  (exec_scrWr k row s).trans (runLatched_eq hp ((check_scratch (.inl rfl) _ s).trans (if_neg hk)) rfl)

/-- SCR_WR writes row ROW of bank K and keeps every other row of every bank. -/
theorem exec_scrWr_rows {s : State} {p : Pending} {k : BitVec 2} (row : BitVec 6) (hp : s.pend = some p) (hk : k ≠ 3) :
    ∃ t, exec (.scrWr k row) s = .next t ∧ t = { done s s.result 0 with scr := t.scr } ∧
      ∀ (b : Fin 3) (j : Fin 64),
        t.scr[b][j] = if b.val = k.toNat ∧ j.val = row.toNat then p.operand else s.scr[b][j] :=
  ⟨_, exec_scrWr_ok row hp hk, rfl, s.getElem_setScratchRow k.toNat row p.operand⟩

/-- Settles O14: the row of the opcode 0x50, its one check, and the row that its commit writes. -/
theorem scrWrCommand : Obligations.ScrWrCommand := by
  refine ⟨commandWords_of_opcode (op := 0x50) rfl,
    fun _ _ => answeredWith_of_check fun s => check_scratch (.inl rfl) _ s,
    fun s p k row hp hk => exec_scrWr_rows row hp hk, ?_⟩
  obtain ⟨t, ht, -, hrows⟩ := exec_scrWr_rows (s := fixture3With (.scrWr 0 0) 0x3) (k := 0) 0 rfl (by decide)
  exact ⟨t, ht, hrows 0 0⟩

/-! ### SCR_RD -/

theorem exec_scrRd_ok {s : State} {p : Pending} (b : Fin 3) (j : Fin 64) (hp : s.pend = some p) :
    exec (.scrRd (BitVec.ofNat 2 b.val) (BitVec.ofNat 6 j.val)) s = .next (done s s.scr[b][j] 0) := by
  have hk : BitVec.ofNat 2 b.val ≠ 3 := by revert b; decide
  have hb : (BitVec.ofNat 2 b.val).toNat = b.val := Nat.mod_eq_of_lt (by omega)
  have hj : (BitVec.ofNat 6 j.val).toNat = j.val := Nat.mod_eq_of_lt j.isLt
  refine (exec_scrRd _ _ s).trans (runLatched_eq hp ((check_scratch (.inr rfl) _ s).trans (if_neg hk)) ?_)
  rw [hb, hj, State.scratch_eq_getElem, rowAt_eq_getElem]
  rfl

theorem getElem_reset_scr (b : Fin 3) (j : Fin 64) : State.reset.scr[b][j] = 0 := by simp [State.reset]

/-- SCR_RD reads back what SCR_WR wrote. -/
theorem scrRd_of_scrWr {s t : State} {x w : Word} (hp : s.pend = some ⟨w, x⟩) (ht : exec (.scrWr 0 0) s = .next t) :
    resultOf (exec (.scrRd 0 0) (acceptedWith t 0x51)) = x := by
  obtain ⟨u, hu, -, hrows⟩ := exec_scrWr_rows (k := 0) 0 hp (by decide)
  obtain rfl : u = t := Host.Outcome.next.inj (hu.symm.trans ht)
  exact (congrArg resultOf (exec_scrRd_ok (s := acceptedWith u 0x51) 0 0 rfl)).trans (hrows 0 0)

/-- Settles O15: the row of the opcode 0x51, its one check, and the row that its commit reads. -/
theorem scrRdCommand : Obligations.ScrRdCommand :=
  ⟨commandWords_of_opcode (op := 0x51) rfl, fun _ _ => answeredWith_of_check fun s => check_scratch (.inr rfl) _ s,
    fun _ _ b j hp => exec_scrRd_ok b j hp, getElem_reset_scr, fun _ _ _ _ => scrRd_of_scrWr⟩

/-! ### MATMUL -/

theorem exec_matmul_ok {s : State} {p : Pending} (hp : s.pend = some p) (h1 : 1 ≤ p.operand) (h64 : p.operand ≤ 64) :
    exec .matmul s = .next ((s.setScratch 2 (multiply s.scr[0] s.scr[1] p.operand.toNat)).commit 0) :=
  (exec_matmul s).trans (runLatched_eq hp (check_size_ok (.inl rfl) s h1 h64) rfl)

/-- The next state of MATMUL. -/
theorem exec_matmul_banks {s : State} {p : Pending} (hp : s.pend = some p) (h1 : 1 ≤ p.operand) (h64 : p.operand ≤ 64) :
    ∃ t, exec .matmul s = .next t ∧ t = { done s s.result 0 with scr := t.scr } ∧
      t.scr[0] = s.scr[0] ∧ t.scr[1] = s.scr[1] ∧ t.scr[2] = multiply s.scr[0] s.scr[1] p.operand.toNat ∧
      ∀ i : Fin 64, p.operand.toNat ≤ i.val → t.scr[2][i] = 0 := by
  have hscr : (s.setScratch 2 (multiply s.scr[0] s.scr[1] p.operand.toNat)).scr[2] =
      multiply s.scr[0] s.scr[1] p.operand.toNat := by simp
  refine ⟨_, exec_matmul_ok hp h1 h64, rfl, by simp, by simp, hscr, fun i hi => ?_⟩
  rw [State.commit_scr, hscr, ← rowAt_eq_getElem, rowAt_multiply_of_le _ _ hi]

/-- The entries of size `n` do not depend on the bits and rows at `n` or above. -/
theorem entries_congr {n : Nat} (hn : n ≤ 64) {x y : BitMatrix}
    (h : ∀ i < n, rowAt x i &&& mask n = rowAt y i &&& mask n) : entries n x = entries n y := by
  ext i j
  have hbit := congrArg (bit · j) (h i i.isLt)
  simp only [bit_and, bit_mask hn, decide_eq_true j.isLt, Bool.and_true] at hbit
  rw [entries_apply, entries_apply, hbit]

theorem multiply_congr {n : Nat} (hn : n ≤ 64) {a b a' b' : BitMatrix}
    (h : ∀ i < n, rowAt a i &&& mask n = rowAt a' i &&& mask n ∧ rowAt b i &&& mask n = rowAt b' i &&& mask n) :
    multiply a b n = multiply a' b' n :=
  eq_of_entries_eq hn (multiply_wfSize hn _ _) (multiply_wfSize hn _ _) (by
    rw [entries_multiply hn, entries_multiply hn, entries_congr hn fun i hi => (h i hi).1,
      entries_congr hn fun i hi => (h i hi).2])

/-- The product of the example of R182. -/
theorem multiply_matmulExample {a b : BitMatrix} (ha0 : a[0] = 0b011) (ha1 : a[1] = 0b110) (ha2 : a[2] = 0b101)
    (hb0 : b[0] = 0b001) (hb1 : b[1] = 0b011) (hb2 : b[2] = 0b111) :
    (multiply a b 3)[0] = 0b010 ∧ (multiply a b 3)[1] = 0b100 ∧ (multiply a b 3)[2] = 0b110 := by
  have row (i : Nat) (hi : i < 3) : (multiply a b 3)[i] =
      0 ^^^ (if bit a[i] 0 then b[0] &&& mask 3 else 0) ^^^ (if bit a[i] 1 then b[1] &&& mask 3 else 0) ^^^
        (if bit a[i] 2 then b[2] &&& mask 3 else 0) := by
    simpa [rowAt, show i < 64 by omega, xorOver_succ] using rowAt_multiply a b (n := 3) (by decide) hi
  refine ⟨?_, ?_, ?_⟩
  · rw [row 0 (by decide), ha0, hb0, hb1, hb2]; decide
  · rw [row 1 (by decide), ha1, hb0, hb1, hb2]; decide
  · rw [row 2 (by decide), ha2, hb0, hb1, hb2]; decide

/-- Settles O16: the row of the opcode 0x52, the size check, and the product that its commit writes. -/
theorem matmulCommand : Obligations.MatmulCommand := by
  refine ⟨commandWords_of_opcode (op := 0x52) rfl, answeredWith_of_check fun s => check_size (.inl rfl) _ s,
    fun s p => exec_matmul_banks, fun _ _ _ _ _ _ hn => multiply_congr hn, by decide,
    fun s w hp ha0 ha1 ha2 hb0 hb1 hb2 => ?_⟩
  have hsize : (1 : Word) ≤ 3 ∧ (3 : Word) ≤ 64 := by decide
  obtain ⟨t, ht, -, -, -, hprod, hzero⟩ := exec_matmul_banks hp hsize.1 hsize.2
  have hthree : t.scr[2] = multiply s.scr[0] s.scr[1] 3 := hprod
  obtain ⟨h0, h1, h2⟩ := multiply_matmulExample ha0 ha1 ha2 hb0 hb1 hb2
  rw [← hthree] at h0 h1 h2
  exact ⟨t, ht, h0, h1, h2, hzero⟩

/-! ### GENMAT -/

theorem exec_genmat_ok {s : State} {p : Pending} (hp : s.pend = some p) (h1 : 1 ≤ p.operand) (h64 : p.operand ≤ 64) :
    exec .genmat s = withDraws p.operand.toNat s fun ds u =>
      .next (((u.setScratch 0 (genMatrix p.operand.toNat (drawAt ds))).setScratch 1
        (genInverse p.operand.toNat (drawAt ds))).commit p.operand) :=
  (exec_genmat s).trans (runLatched_eq hp (check_size_ok (.inr rfl) s h1 h64) rfl)

/-- With its draws at hand GENMAT commits the generated pair. -/
theorem exec_genmat_enough {s : State} {p : Pending} (hp : s.pend = some p) (h1 : 1 ≤ p.operand) (h64 : p.operand ≤ 64)
    (hdraws : p.operand.toNat ≤ s.taken.length + s.entropy.length) :
    ∃ t, exec .genmat s = .next t ∧
      t = { done s s.result p.operand with
        scr := t.scr, taken := [], entropy := s.entropy.drop (p.operand.toNat - s.taken.length) } ∧
      t.scr[0] = genMatrix p.operand.toNat (drawAt ((s.taken ++ s.entropy).take p.operand.toNat)) ∧
      t.scr[1] = genInverse p.operand.toNat (drawAt ((s.taken ++ s.entropy).take p.operand.toNat)) ∧
      t.scr[2] = s.scr[2] :=
  ⟨_, (exec_genmat_ok hp h1 h64).trans (withDraws_enough hdraws), rfl, by simp, by simp, by simp⟩

/-- With too few draws it holds them and waits. -/
theorem exec_genmat_short {s : State} {p : Pending} (hp : s.pend = some p) (h1 : 1 ≤ p.operand) (h64 : p.operand ≤ 64)
    (hdraws : s.taken.length + s.entropy.length < p.operand.toNat) :
    exec .genmat s = .next { s with taken := s.taken ++ s.entropy, entropy := [] } :=
  (exec_genmat_ok hp h1 h64).trans (withDraws_short hdraws)

/-- The matrices of the example of R186. -/
theorem genmatExample :
    (lowerFactor 3 genmatExampleDraws).toList.take 3 = [0b001, 0b010, 0b111] ∧
    (upperFactor 3 genmatExampleDraws).toList.take 3 = [0b101, 0b010, 0b100] ∧
    (genMatrix 3 genmatExampleDraws).toList.take 3 = [0b101, 0b010, 0b011] ∧
    (genInverse 3 genmatExampleDraws).toList.take 3 = [0b110, 0b010, 0b111] := by
  decide +kernel

/-- Settles O17: the row of the opcode 0x53, the size check, and the draws: enough of them or too few. -/
theorem genmatCommand : Obligations.GenmatCommand := by
  refine ⟨commandWords_of_opcode (op := 0x53) rfl, answeredWith_of_check fun s => check_size (.inr rfl) _ s,
    fun s p hp h1 h64 hdraws => ?_, fun s p => exec_genmat_short, genmatExample⟩
  have hn : p.operand.toNat ≤ 64 := h64
  obtain ⟨t, ht, hframe, hm, hminv, hsc⟩ := exec_genmat_enough hp h1 h64 hdraws
  refine ⟨t, ht, hframe, hm, hminv, hsc, fun i hi => ?_, ?_⟩
  · rw [hm, hminv, ← rowAt_eq_getElem, ← rowAt_eq_getElem]
    exact ⟨rowAt_multiply_of_le _ _ hi, rowAt_multiply_of_le _ _ hi⟩
  · rw [hm, hminv]
    exact multiply_genMatrix_genInverse hn _

end Sys2Proof.Machine
end

section
/-! PROOFS. The stage bank and its sub-steps (43_stage_bank.md R200 to R209): what a built stage holds, `matvec` as a
row times a matrix, the steps on `n`-bit words with their inverses, and the stages of width 1. -/

namespace Sys2Proof.Machine

open Sys2Proof Sys2Proof.Claims

/-! ### Building the bank -/

theorem getElem_buildBank (n : Nat) (ds : List Word) (k : Fin 4) : (buildBank n ds)[k] = buildStage n ds k.val := by
  simp [buildBank]

/-- The draws of stage `k` lie within the `4·(n+1)` draws of an INIT (43_stage_bank.md R201). -/
theorem drawIndex_lt {n i : Nat} (k : Fin 4) (hi : i ≤ n) : k.val * (n + 1) + i < 4 * (n + 1) :=
  calc k.val * (n + 1) + i
    _ < k.val * (n + 1) + (n + 1) := by omega
    _ = (k.val + 1) * (n + 1) := (Nat.succ_mul _ _).symm
    _ ≤ 4 * (n + 1) := Nat.mul_le_mul_right _ (by omega)

/-- Settles O39: the builder reads the draws stage by stage, and its stages have the invariants of R41. -/
theorem bankIsBuiltFromTheDrawsInOrder : Obligations.BankIsBuiltFromTheDrawsInOrder := by
  intro n ds k _ hn hlen
  have hinv := buildStage_inv hn ds k.val
  rw [getElem_buildBank]
  exact ⟨rfl, rfl, rfl, hinv.mult_imult, hinv, fun i hi => hlen ▸ drawIndex_lt k hi⟩

/-! ### A row times a matrix -/

theorem matvec_and_mask {n : Nat} (hn : n ≤ 64) (x : BitMatrix) (z : Word) : matvec x (z &&& mask n) n = matvec x z n :=
  eq_of_rowEntries_eq (matvec_mem hn _ _) (matvec_mem hn _ _) (by
    rw [rowEntries_matvec hn, rowEntries_matvec hn, rowEntries_and_mask hn])

/-- The matrix whose one row is `z` has `matvec(X, z, n)` as row 0 of its product with `X` (43_stage_bank.md R204). -/
theorem rowAt_multiply_singleRow {n : Nat} (h1 : 1 ≤ n) (hn : n ≤ 64) (x : BitMatrix) (z : Word) :
    rowAt (multiply (BitMatrix.zero.set 0 z) x n) 0 = matvec x z n := by
  have hrow : rowAt (BitMatrix.zero.set 0 z) 0 = z := by simp [rowAt]
  rw [rowAt_multiply _ _ hn h1, hrow, matvec_eq_xorOver]

/-- Settles O40: a row vector over GF(2) times a matrix, which reads only the entries of size `n`. -/
theorem matvecIsARowTimesTheMatrix : Obligations.MatvecIsARowTimesTheMatrix := fun x y z _ h1 hn =>
  ⟨(rowAt_multiply_singleRow h1 hn x z).symm, (matvec_multiply hn y x z).symm, matvec_and_mask hn x z, rfl⟩

/-! ### The steps and the stages -/

/-- The Weyl sum depends on the low `n` bits of PHI only (43_stage_bank.md R203). -/
theorem toNat_weyl {n : Nat} (hn : n ≤ 64) (z : Word) :
    (weyl n z).toNat = (z.toNat + (phi &&& mask n).toNat) % 2 ^ n := by
  rw [weyl, toNat_and_mask hn, BitVec.toNat_add, Nat.mod_mod_of_dvd _ (pow_dvd_pow 2 hn), toNat_and_mask hn,
    Nat.add_mod_mod]

theorem Stage.Inv.imult_mult {g : Stage} {n : Nat} (hg : g.Inv n) : g.imult * g.mult = 1 :=
  (mul_comm g.imult g.mult).trans hg.mult_imult

/-- Settles O41: a sum and a difference, a matrix and its inverse, a multiplier and its inverse. -/
theorem subStepsHaveInverses : Obligations.SubStepsHaveInverses := fun _ _ z _ hn hg =>
  ⟨rfl, rfl, toNat_weyl hn z, unweyl_weyl hn z, weyl_unweyl hn z, matvec_matvec hn hg.m_minv z,
    matvec_matvec hn hg.minv_m z, lehmer_lehmer hn z hg.mult_imult, lehmer_lehmer hn z hg.imult_mult⟩

/-- Masking once, at the end of the forward stage, is enough (43_stage_bank.md R207). -/
theorem stageFwd_eq_maskedOnce {n : Nat} (hn : n ≤ 64) (g : Stage) (z : Word) :
    stageFwd g n z = (xorOver (z + phi) (rowAt g.m) n * g.mult) &&& mask n := by
  rw [stageFwd, weyl, matvec_and_mask hn, matvec, lehmer, and_mask_mul hn]

/-- Settles O42: the stages are compositions of steps that undo each other. -/
theorem stagesUndoEachOther : Obligations.StagesUndoEachOther := by
  intro g n z _ hn hg hz
  have h := hg.mutuallyInverse hn
  exact ⟨h.left_inv hz, h.right_inv hz, h.mapsTo hz, h.mapsTo_inv hz, stageFwd_eq_maskedOnce hn g z⟩

/-! ### Rows of `n` bits, and `matvec` at 0 and at the unit vectors -/

theorem zero_mem_nBitWords (n : Nat) : (0 : Word) ∈ nBitWords n := Nat.two_pow_pos n

theorem rowAt_mem {x : BitMatrix} {n : Nat} (hn : n ≤ 64) (hx : x.wfSize n) (i : Nat) : rowAt x i ∈ nBitWords n := by
  rw [mem_nBitWords, ← and_mask_eq_iff hn]
  refine BitVec.eq_of_getLsbD_eq fun j _ => ?_
  have hbit : bit (rowAt x i) j = true → j < n := fun hb => ((wfSize_iff hn).mp hx i j hb).2
  rw [← bit, bit_and, bit_mask hn]
  simpa using hbit

theorem matvec_zero {n : Nat} (hn : n ≤ 64) (x : BitMatrix) : matvec x 0 n = 0 := by
  have hzero : rowEntries n 0 = 0 := by
    funext j
    simp [rowEntries]
  refine eq_of_rowEntries_eq (matvec_mem hn _ _) (zero_mem_nBitWords n) ?_
  rw [rowEntries_matvec hn, hzero, Matrix.zero_vecMul]

theorem rowEntries_unitVec {n : Nat} (hn : n ≤ 64) (j : Fin n) : rowEntries n (unitVec j) = Pi.single j 1 := by
  funext i
  rw [rowEntries, bit_unitVec, decide_eq_true (by omega), Bool.true_and, Pi.single_apply]
  by_cases h : i = j
  · simp [h]
  · simp [h, Fin.val_ne_of_ne (Ne.symm h)]

/-- A unit vector selects one row (43_stage_bank.md R222). -/
theorem matvec_unitVec {n j : Nat} (hn : n ≤ 64) (hj : j < n) (x : BitMatrix) :
    matvec x (unitVec j) n = rowAt x j &&& mask n := by
  refine eq_of_rowEntries_eq (matvec_mem hn _ _) (and_mask_mem hn _) ?_
  rw [rowEntries_matvec hn, rowEntries_unitVec hn ⟨j, hj⟩, Matrix.single_one_vecMul, rowEntries_and_mask hn]
  rfl

theorem matvec_unitVec_of_wf {n j : Nat} (hn : n ≤ 64) (hj : j < n) {x : BitMatrix} (hx : x.wfSize n) :
    matvec x (unitVec j) n = rowAt x j :=
  (matvec_unitVec hn hj x).trans (and_mask_of_mem hn (rowAt_mem hn hx j))

/-! ### Width 1 -/

theorem eq_zero_or_one_of_mem {z : Word} (hz : z ∈ nBitWords 1) : z = 0 ∨ z = 1 := by
  rw [mem_nBitWords] at hz
  bv_omega

/-- A permutation of the two 1-bit words that fixes 0 is the identity. -/
theorem MutuallyInverse.eq_self_of_width_one {f g : Word → Word} (h : MutuallyInverse 1 f g) (h0 : f 0 = 0) {z : Word}
    (hz : z ∈ nBitWords 1) : f z = z := by
  obtain rfl | rfl := eq_zero_or_one_of_mem hz
  · exact h0
  · refine (eq_zero_or_one_of_mem (h.mapsTo hz)).resolve_left fun h1 => ?_
    exact absurd (h.left_inv.injOn hz (zero_mem_nBitWords 1) (h1.trans h0.symm)) (by decide)

theorem matvec_width_one {x y : BitMatrix} (hxy : multiply x y 1 = identity 1) (hyx : multiply y x 1 = identity 1)
    {z : Word} (hz : z ∈ nBitWords 1) : matvec x z 1 = z :=
  (matvec_mutuallyInverse (by decide) hxy hyx).eq_self_of_width_one (matvec_zero (by decide) x) hz

theorem lehmer_width_one {m m' : Word} (h : m * m' = 1) {z : Word} (hz : z ∈ nBitWords 1) : lehmer 1 z m = z :=
  (lehmer_mutuallyInverse (by decide) h).eq_self_of_width_one (by simp [lehmer]) hz

/-- PHI is odd: at width 1 the Weyl step flips the bit. -/
theorem weyl_width_one {z : Word} (hz : z ∈ nBitWords 1) : weyl 1 z = z ^^^ 1 := by
  obtain rfl | rfl := eq_zero_or_one_of_mem hz <;> decide

theorem unweyl_width_one {z : Word} (hz : z ∈ nBitWords 1) : unweyl 1 z = z ^^^ 1 := by
  obtain rfl | rfl := eq_zero_or_one_of_mem hz <;> decide

/-- At width 1 only the Weyl step acts (43_stage_bank.md R220). -/
theorem stageFwd_width_one {g : Stage} (hg : g.Inv 1) {z : Word} (hz : z ∈ nBitWords 1) : stageFwd g 1 z = z ^^^ 1 :=
  calc stageFwd g 1 z
    _ = matvec g.m (weyl 1 z) 1 := lehmer_width_one hg.mult_imult (matvec_mem (by decide) _ _)
    _ = weyl 1 z := matvec_width_one hg.m_minv hg.minv_m (and_mask_mem (by decide) _)
    _ = z ^^^ 1 := weyl_width_one hz

/-- At width 1 only the inverse Weyl step acts (43_stage_bank.md R221). -/
theorem stageInv_width_one {g : Stage} (hg : g.Inv 1) {z : Word} (hz : z ∈ nBitWords 1) : stageInv g 1 z = z ^^^ 1 := by
  have hlehmer : lehmer 1 z g.imult = z := lehmer_width_one hg.imult_mult hz
  have hmatvec : matvec g.minv z 1 = z := matvec_width_one hg.minv_m hg.m_minv hz
  rw [stageInv, hlehmer, hmatvec, unweyl_width_one hz]

end Sys2Proof.Machine
end

section
/-! PROOFS. The stage commands (43_stage_bank.md R220 to R224). -/

namespace Sys2Proof.Machine

open Sys2Proof Sys2Proof.Claims

/-! ### The checks and the commit -/

/-- The answer to a command that needs READY and has no other check to fail. -/
theorem check_eq_noinitOnly {i : Instr} {x : Word} {s : State} (hn : needsReady i = true)
    (hf : fieldOutOfRange i s = false) (ho : operandCheck i x s = none) : check i x s = noinitOnly s := by
  cases hr : s.status.ready with
  | false => rw [check_noinit hn hr, noinitOnly, hr]; rfl
  | true => rw [check_ready hr hf ho, noinitOnly, hr]; rfl

/-- A command whose checks hold and that writes RESULT with COUNT 0 leaves nothing else changed. -/
theorem runLatched_done {i : Instr} {s : State} {p : Pending} {r : Word → Word} (hp : s.pend = some p)
    (hc : check i p.operand s = none) :
    runLatched i s (fun x => .next ((s.setResult (r x)).commit 0)) = .next (done s (r p.operand) 0) :=
  runLatched_eq hp hc rfl

@[simp] theorem done_result (s : State) (r c : Word) : (done s r c).result = r := rfl

@[simp] theorem done_bank (s : State) (r c : Word) : (done s r c).bank = s.bank := rfl

@[simp] theorem done_width (s : State) (r c : Word) : (done s r c).width = s.width := rfl

section

variable {s : State} {p : Pending} (hp : s.pend = some p) (hr : s.status.ready = true) (k : BitVec 2) (sel : Select)

include hp hr

theorem exec_stageFwd_ready : exec (.stageFwd k) s =
    .next (done s (stageFwd s.bank[k.toFin] s.width (p.operand &&& mask s.width)) 0) :=
  (exec_stageFwd k s).trans (runLatched_done hp (check_ready hr rfl rfl))

theorem exec_stageInv_ready : exec (.stageInv k) s =
    .next (done s (stageInv s.bank[k.toFin] s.width (p.operand &&& mask s.width)) 0) :=
  (exec_stageInv k s).trans (runLatched_done hp (check_ready hr rfl rfl))

theorem exec_matvec_ready : exec (.matvec k sel) s =
    .next (done s (matvec (s.bank[k.toFin].matrix sel) (p.operand &&& mask s.width) s.width) 0) :=
  (exec_matvec k sel s).trans (runLatched_done hp (check_ready hr rfl rfl))

theorem exec_readRow_ready {row : BitVec 6} (hrow : row.toNat < s.width) : exec (.readRow k sel row) s =
    .next (done s (rowAt (s.bank[k.toFin].matrix sel) row.toNat) 0) := by
  have hfield : fieldOutOfRange (.readRow k sel row) s = false := decide_eq_false (Nat.not_le.mpr hrow)
  exact (exec_readRow k sel row s).trans (runLatched_done hp (check_ready hr hfield rfl))

theorem exec_readMult_ready : exec (.readMult k sel) s =
    .next (done s (s.bank[k.toFin].multiplier sel) 0) :=
  (exec_readMult k sel s).trans (runLatched_done hp (check_ready hr rfl rfl))

end

/-! ### STAGE_FWD and STAGE_INV -/

/-- Settles O18: the row of the opcode 0x32, the check on READY, the commit of the forward stage, and width 1. -/
theorem stageFwdCommand : Obligations.StageFwdCommand :=
  ⟨commandWords_of_opcode (op := 0x32) rfl, fun _ => answeredWith_of_check fun _ => check_eq_noinitOnly rfl rfl rfl,
    fun _ _ k hp hr => exec_stageFwd_ready hp hr k,
    fun _ x hg => stageFwd_width_one hg (and_mask_mem (by decide) x), rfl, by decide +kernel, by decide +kernel⟩

/-- STAGE_INV latched on the RESULT of a state. -/
theorem exec_stageInv_latched {t : State} (w : Word) (hr : t.status.ready = true) (k : BitVec 2) :
    exec (.stageInv k) { t with pend := some ⟨w, t.result⟩, status := { t.status with busy := true } } =
      .next (done t (stageInv t.bank[k.toFin] t.width (t.result &&& mask t.width)) 0) :=
  exec_stageInv_ready (s := { t with pend := some ⟨w, t.result⟩, status := { t.status with busy := true } })
    (p := ⟨w, t.result⟩) rfl hr k

/-- Where a GeneratorState has executed STAGE_FWD, STAGE_INV on its RESULT returns the masked operand
(43_stage_bank.md R209, R221). -/
theorem exec_stageInv_of_stageFwd {s t : State} {p : Pending} {k : BitVec 2} (w : Word) (hs : s.GeneratorInv)
    (hr : s.status.ready = true) (hp : s.pend = some p) (ht : exec (.stageFwd k) s = .next t) :
    exec (.stageInv k) { t with pend := some ⟨w, t.result⟩, status := { t.status with busy := true } } =
      .next { t with result := p.operand &&& mask s.width } := by
  have hn := hs.width_max
  have hstage := (hs.stages k.toFin).mutuallyInverse hn
  have hz := and_mask_mem hn p.operand
  have hdone := Host.Outcome.next.inj ((exec_stageFwd_ready hp hr k).symm.trans ht)
  have hready : t.status.ready = true := hdone ▸ hr
  have hback : stageInv t.bank[k.toFin] t.width (t.result &&& mask t.width) = p.operand &&& mask s.width := by
    rw [← hdone, done_bank, done_width, done_result, and_mask_of_mem hn (hstage.mapsTo hz), hstage.left_inv hz]
  rw [exec_stageInv_latched w hready, hback, ← hdone]
  rfl

/-- Settles O19: the row of the opcode 0x33, the check on READY, the commit of the inverse stage, width 1, and the
forward stage undone. -/
theorem stageInvCommand : Obligations.StageInvCommand :=
  ⟨commandWords_of_opcode (op := 0x33) rfl, fun _ => answeredWith_of_check fun _ => check_eq_noinitOnly rfl rfl rfl,
    fun _ _ k hp hr => exec_stageInv_ready hp hr k,
    fun _ x hg => stageInv_width_one hg (and_mask_mem (by decide) x),
    fun _ _ _ _ w hs hr hp => exec_stageInv_of_stageFwd w hs hr hp, by decide +kernel⟩

/-! ### MATVEC -/

/-- Settles O20: the row of the opcode 0x34, the check on READY, the commit for both selects, and the products with 0,
with the unit vectors and with the inverse. -/
theorem matvecCommand : Obligations.MatvecCommand :=
  ⟨commandWords_of_opcode (op := 0x34) rfl, fun _ _ => answeredWith_of_check fun _ => check_eq_noinitOnly rfl rfl rfl,
    fun _ _ k hp hr => ⟨exec_matvec_ready hp hr k .fwd, exec_matvec_ready hp hr k .inv⟩,
    fun x _ hn => ⟨matvec_zero hn x, fun _ hj => matvec_unitVec hn hj x⟩,
    fun _ _ z _ hn hg =>
      ⟨fun _ hj => ⟨matvec_unitVec_of_wf hn hj hg.m_wf, matvec_unitVec_of_wf hn hj hg.minv_wf⟩,
        (matvec_matvec hn hg.m_minv _).trans (and_mask_idem _ z)⟩,
    by decide +kernel⟩

/-! ### READ_ROW and READ_MULT -/

/-- READ_ROW needs READY and a ROW below BITS (30_encoding.md R109, R110). -/
theorem check_readRow (k : BitVec 2) (sel : Select) (row : BitVec 6) (x : Word) (s : State) :
    check (.readRow k sel row) x s =
      if s.status.ready = false then some .noinit else if s.bits.toNat ≤ row.toNat then some .field else none := by
  cases hr : s.status.ready with
  | false => exact check_noinit rfl hr
  | true =>
    by_cases hrow : s.bits.toNat ≤ row.toNat
    · have hfield : fieldOutOfRange (.readRow k sel row) s = true := decide_eq_true hrow
      simp [check, hr, hfield, hrow]
    · have hfield : fieldOutOfRange (.readRow k sel row) s = false := decide_eq_false hrow
      simp [check_ready hr hfield rfl, hrow]

/-- Settles O21: the row of the opcode 0x40, the checks on READY and on ROW, the row that the commit reads, and the bound
on the rows of a GeneratorState. -/
theorem readRowCommand : Obligations.ReadRowCommand := by
  refine ⟨commandWords_of_opcode (op := 0x40) rfl,
    fun k sel row => answeredWith_of_check fun s => check_readRow k sel row _ s,
    fun _ _ k _ hp hr hrow => ⟨exec_readRow_ready hp hr k .fwd hrow, exec_readRow_ready hp hr k .inv hrow⟩,
    fun s k row hs => ?_, by decide +kernel⟩
  have hstage := hs.stages k.toFin
  exact ⟨rowAt_mem hs.width_max hstage.m_wf row.toNat, rowAt_mem hs.width_max hstage.minv_wf row.toNat⟩

/-- Settles O22: the row of the opcode 0x41, the check on READY, the multiplier that the commit reads, and the builder's
multipliers, which are forced odd. -/
theorem readMultCommand : Obligations.ReadMultCommand := by
  refine ⟨commandWords_of_opcode (op := 0x41) rfl,
    fun _ _ => answeredWith_of_check fun _ => check_eq_noinitOnly rfl rfl rfl,
    fun _ _ k hp hr => ⟨exec_readMult_ready hp hr k .fwd, exec_readMult_ready hp hr k .inv⟩,
    fun n ds k => ?_, by decide +kernel, by decide +kernel⟩
  rw [getElem_buildBank]
  exact ⟨bit_or_one _, mul_modinv (bit_or_one _)⟩

end Sys2Proof.Machine
end

section
/-! PROOFS. The xor-shifts and the mix on the `n`-bit words (44_mix.md R242, R246 to R249). -/

namespace Sys2Proof.Machine

open Sys2Proof Sys2Proof.Claims

/-- Settles O43, by the inverse that the loop of `unxs` builds round by round. -/
theorem unxsInvertsXsExactly : Obligations.UnxsInvertsXsExactly := by
  intro n s z _ hn hs hz
  have hxs := xs_mutuallyInverse hn hs
  exact ⟨hxs.left_inv hz, hxs.right_inv hz, hxs.mapsTo hz, hxs.mapsTo_inv hz, xs_of_le hz⟩

@[simp] theorem xs_zero (s : Nat) : xs 0#64 s = 0#64 := by simp [xs]

/-- Every step of the mix maps 0 to 0 (44_mix.md R250). -/
theorem mixApply_zero (r : MixRow) (n : Nat) : mixApply r n 0 = 0 := by simp [mixApply]

/-- The row of ones leaves of the mix its three shifts, all by 1 (44_mix.md R242). -/
theorem mixApply_ones {n : Nat} {z : Word} (hn : n ≤ 64) (hz : z ∈ nBitWords n) :
    mixApply MixRow.ones n z = xs (xs (xs z 1) 1) 1 := by
  have h1 : xs z 1 ∈ nBitWords n := xs_mem hz 1
  have h2 : xs (xs z 1) 1 ∈ nBitWords n := xs_mem h1 1
  simp [mixApply, and_mask_of_mem hn hz, and_mask_of_mem hn h1, and_mask_of_mem hn h2]

/-- Three shifts by 1 are one by 2 and one by 1. -/
theorem xs_xs_xs_one (z : Word) : xs (xs (xs z 1) 1) 1 = z ^^^ (z >>> 1) ^^^ (z >>> 2) ^^^ (z >>> 3) := by
  calc xs (xs (xs z 1) 1) 1
    _ = xs (xs z 1) 2 := by rw [xs_xs, xs_comm]
    _ = z ^^^ (z >>> 1) ^^^ (z >>> 2) ^^^ (z >>> 3) := by
      simp only [xs, BitVec.ushiftRight_xor_distrib, ← BitVec.shiftRight_add, BitVec.xor_assoc]

/-- Below width 8 the mix is the xor of four shifts (90_conflicts.md C2). -/
theorem mixApply_mixRow_low {w : Nat} {z : Word} (hw : w < 8) (hz : z ∈ nBitWords w) :
    mixApply (mixRow w) w z = z ^^^ (z >>> 1) ^^^ (z >>> 2) ^^^ (z >>> 3) := by
  rw [mixRow_low hw, mixApply_ones (by omega) hz, xs_xs_xs_one]

theorem two_mem_nBitWords {w : Nat} (hw : 2 ≤ w) : (2 : Word) ∈ nBitWords w :=
  Nat.lt_of_lt_of_le (m := 2 ^ 2) (by decide) (Nat.pow_le_pow_right (by decide) hw)

/-- The mix takes 2 to 3 at every width in 2..7, so it is not the identity there. -/
theorem mixApply_mixRow_two {w : Nat} (h2 : 2 ≤ w) (hw : w < 8) : mixApply (mixRow w) w 2 = 3 :=
  mixApply_mixRow_low hw (two_mem_nBitWords h2)

/-- Settles O44: the steps of the mix undo each other for a well-formed row, every row of the ROM is well-formed, and the
rows of ones leave the shifts. -/
theorem mixesUndoEachOther : Obligations.MixesUndoEachOther := by
  refine ⟨fun r n z hr _ hn hz => ?_, fun w _ _ => mixRow_wf w, fun w _ hw => mixRow_low (Nat.lt_succ_of_le hw),
    fun w z _ hw hz => mixApply_mixRow_low (Nat.lt_succ_of_le hw) hz, fun w h2 hw => ⟨2, two_mem_nBitWords h2, ?_⟩⟩
  · have hmix := mix_mutuallyInverse hn hr
    exact ⟨hmix.left_inv hz, hmix.right_inv hz, hmix.mapsTo hz, hmix.mapsTo_inv hz⟩
  · rw [mixApply_mixRow_two h2 (Nat.lt_succ_of_le hw)]
    decide

end Sys2Proof.Machine
end

section
/-! PROOFS. The mix commands (44_mix.md R250 to R252). -/

namespace Sys2Proof.Machine

open Sys2Proof Sys2Proof.Claims

/-! ### MIX_FWD and MIX_INV -/

/-- Width 1 holds only 0 and 1, and the mix fixes 0, so it fixes both. -/
theorem mixApply_width_one {r : MixRow} (hr : r.WF) {z : Word} (hz : z ∈ nBitWords 1) : mixApply r 1 z = z :=
  (mix_mutuallyInverse (by decide) hr).eq_self_of_width_one (mixApply_zero r 1) hz

/-- Settles O23: the row of the opcode 0x30, the check on READY, the commit of the forward mix, width 1, and zero. -/
theorem mixFwdCommand : Obligations.MixFwdCommand := by
  refine ⟨commandWords_of_opcode (op := 0x30) rfl, answeredWith_of_check fun _ => check_eq_noinitOnly rfl rfl rfl,
    fun s _ hp hr => (exec_mixFwd s).trans (runLatched_done hp (check_ready hr rfl rfl)),
    fun z => mixApply_width_one (mixRow_wf 1) (and_mask_mem (by decide) z), ?_, fun n _ _ => mixApply_zero _ n, ?_⟩
  · rw [mixRow_low (by decide)]
    decide
  · rw [mixRow_low (by decide)]
    decide

/-- Settles O24: the row of the opcode 0x31, the check on READY, the commit of the inverse mix, and the forward mix
undone at every width. -/
theorem mixInvCommand : Obligations.MixInvCommand := by
  refine ⟨commandWords_of_opcode (op := 0x31) rfl, answeredWith_of_check fun _ => check_eq_noinitOnly rfl rfl rfl,
    fun s _ hp hr => (exec_mixInv s).trans (runLatched_done hp (check_ready hr rfl rfl)), ?_,
    fun n _ hn z => (mix_mutuallyInverse hn (mixRow_wf n)).left_inv (and_mask_mem hn z), ?_⟩
  · rw [mixRow_low (by decide)]
    decide
  · rw [mixRow_low (by decide)]
    decide

/-! ### READ_MIXC -/

theorem fieldOutOfRange_readMixc_iff (row : BitVec 6) (s : State) :
    fieldOutOfRange (.readMixc row) s = true ↔ 6 < row.toNat := by
  simp [fieldOutOfRange, Instr.wellFormed, mixIndexOk]

/-- READ_MIXC needs READY and a ROW of at most 6 (30_encoding.md R109, R110). -/
theorem check_readMixc (row : BitVec 6) (x : Word) (s : State) :
    check (.readMixc row) x s =
      if s.status.ready = false then some .noinit else if 6 < row.toNat then some .field else none := by
  cases hr : s.status.ready with
  | false => exact check_noinit rfl hr
  | true => simp [check, hr, fieldOutOfRange_readMixc_iff, operandCheck]

theorem exec_readMixc_ready {s : State} {p : Pending} (hp : s.pend = some p) (hr : s.status.ready = true) {row : BitVec 6}
    (hrow : row.toNat ≤ 6) : exec (.readMixc row) s = .next (done s (mixConst (mixRow s.width) row.toNat) 0) := by
  have hfield : fieldOutOfRange (.readMixc row) s = false :=
    Bool.eq_false_iff.mpr fun h => absurd ((fieldOutOfRange_readMixc_iff row s).mp h) (Nat.not_lt.mpr hrow)
  exact (exec_readMixc row s).trans (runLatched_done hp (check_ready hr hfield rfl))

theorem mixConst_ones : ∀ i ≤ 6, mixConst MixRow.ones i = 1 := by decide

/-- Settles O25: the row of the opcode 0x42, the checks on READY and on ROW, the constant that the commit reads, and the
row of ones below width 8. -/
theorem readMixcCommand : Obligations.ReadMixcCommand := by
  refine ⟨commandWords_of_opcode (op := 0x42) rfl, fun row => answeredWith_of_check fun s => check_readMixc row _ s,
    fun s p hp hr => ?_, fun s p row hp hr hrow hw => ?_, by decide +kernel⟩
  · have hread {row : BitVec 6} (hrow : row.toNat ≤ 6) := exec_readMixc_ready hp hr hrow
    exact ⟨hread (by decide), hread (by decide), hread (by decide), hread (by decide), hread (by decide),
      hread (by decide), hread (by decide)⟩
  · rw [exec_readMixc_ready hp hr hrow, mixRow_low hw]
    exact mixConst_ones row.toNat hrow

end Sys2Proof.Machine
end

section
/-! PROOFS. The width of a bound, BitWidth (45_permutation.md R270, R271). -/

namespace Sys2Proof.Machine

open Sys2Proof

/-- A mask reaches exactly the words of its width. -/
theorem le_mask_iff {n : Nat} (hn : n ≤ 64) (m : Word) : m ≤ mask n ↔ m.toNat < 2 ^ n := by
  rw [BitVec.le_def, toNat_mask hn]
  exact Nat.le_sub_one_iff_lt (Nat.two_pow_pos n)

theorem leastWidth_le {m : Word} {fuel w v : Nat} (hwv : w ≤ v) (hv : m ≤ mask v) : leastWidth m fuel w ≤ v := by
  induction fuel generalizing w with
  | zero => exact hwv
  | succ fuel ih =>
    unfold leastWidth
    split
    case isTrue => exact hwv
    case isFalse hw =>
      have hne : w ≠ v := fun h => hw (h ▸ hv)
      exact ih (by omega)

/-- The widths in 1..64 that contain a bound are those at and above its BitWidth. -/
theorem bitwidth_le_iff {m : Word} {w : Nat} (h1 : 1 ≤ w) (h64 : w ≤ 64) : bitwidth m ≤ w ↔ m.toNat < 2 ^ w := by
  constructor
  · intro h
    exact Nat.lt_of_lt_of_le ((le_mask_iff (bitwidth_le m) m).mp (le_mask_bitwidth m))
      (Nat.pow_le_pow_right (by decide) h)
  · exact fun h => leastWidth_le h1 ((le_mask_iff h64 m).mpr h)

/-- The bits of a word below its leading zeros are exactly as many as hold it. -/
theorem sub_clz_le_iff {m : Word} {w : Nat} : 64 - m.clz.toNat ≤ w ↔ m.toNat < 2 ^ w := by
  constructor
  · intro h
    exact Nat.lt_of_lt_of_le BitVec.toNat_lt_two_pow_sub_clz (Nat.pow_le_pow_right (by decide) h)
  · intro h
    by_cases hm : m = 0
    · simp [hm]
    · have hclz : 2 ^ (63 - m.clz.toNat) < 2 ^ w := Nat.lt_of_le_of_lt
        (BitVec.two_pow_sub_clz_le_toNat_of_ne_zero (by decide) hm) h
      have hlt := (Nat.pow_lt_pow_iff_right (by decide)).mp hclz
      omega

/-- The closed form `max(1, 64 - clz64(max))` of BitWidth (45_permutation.md R270). -/
theorem bitwidth_eq_clz (m : Word) : bitwidth m = Nat.max 1 (64 - m.clz.toNat) := by
  refine Nat.le_antisymm ?_ (Nat.max_le.mpr ⟨one_le_bitwidth m, ?_⟩)
  · have hle : Nat.max 1 (64 - m.clz.toNat) ≤ 64 := Nat.max_le.mpr ⟨by decide, Nat.sub_le _ _⟩
    exact (bitwidth_le_iff (Nat.le_max_left _ _) hle).mpr (sub_clz_le_iff.mp (Nat.le_max_right _ _))
  · exact sub_clz_le_iff.mpr ((bitwidth_le_iff (one_le_bitwidth m) (bitwidth_le m)).mp le_rfl)

/-- Above width 1 a bound fills more than half of its width (45_permutation.md R271). -/
theorem two_pow_le_of_two_le_bitwidth {m : Word} (h : 2 ≤ bitwidth m) : 2 ^ (bitwidth m - 1) ≤ m.toNat := by
  have hle := bitwidth_le m
  by_contra hlt
  have := (bitwidth_le_iff (m := m) (by omega) (by omega)).mpr (Nat.not_le.mp hlt)
  omega

/-- Settles O45, by the widths that contain a bound. -/
theorem bitwidthIsTheLeastWidth : Obligations.BitwidthIsTheLeastWidth := by
  refine fun m => ⟨one_le_bitwidth m, bitwidth_le m, le_mask_bitwidth m, fun w h1 _ => leastWidth_le h1,
    bitwidth_eq_clz m, two_pow_le_of_two_le_bitwidth, fun h => ?_⟩
  have hlt : m.toNat < 2 ^ 1 := (bitwidth_le_iff (by decide) (by decide)).mp h.le
  bv_omega

end Sys2Proof.Machine
end

section
/-! PROOFS. The passes and the walks of their rejection loops (45_permutation.md R272, R278, R281 to R283): a walk ends
within the values above the bound, and the walk of the inverse pass leads back. -/

namespace Sys2Proof.Machine

open Sys2Proof Sys2Proof.Claims

/-! ### The passes -/

/-- Settles O46: the passes are written out in their definitions, and each of their steps is undone in reverse order. -/
theorem passesAreMutuallyInverse : Obligations.PassesAreMutuallyInverse := by
  refine ⟨fun s z _ => ⟨rfl, rfl⟩, fun s z hs hz => ?_⟩
  have h := hs.mutuallyInverse
  exact ⟨h.left_inv hz, h.right_inv hz, h.mapsTo hz, h.mapsTo_inv hz⟩

/-! ### The first value in range -/

section FirstInRange

variable {n c : Nat} {f g : Word → Word} {max z v : Word}

/-- The loop's answers are the first values in range that it has the fuel for. -/
theorem rejectionLoop_eq_some_iff {fuel : Nat} :
    rejectionLoop f max fuel z 0 = some (v, c) ↔ FirstInRange f max z v c ∧ c ≤ fuel := by
  constructor
  · intro h
    obtain ⟨-, hle, hfirst⟩ := rejectionLoop_some h
    exact ⟨hfirst, by omega⟩
  · rintro ⟨hfirst, hle⟩
    rw [rejectionLoop_of_first hfirst hle, Nat.zero_add]

theorem FirstInRange.le (h : FirstInRange f max z v c) : v ≤ max := by
  obtain ⟨-, -, hle, -⟩ := h
  exact hle

/-- A walk whose first pass ends in range makes one pass. -/
theorem FirstInRange.eq_one (h : FirstInRange f max z v c) (hf : f z ≤ max) : c = 1 := by
  obtain ⟨h1, -, -, hout⟩ := h
  by_contra hne
  exact hout 1 le_rfl (by omega) hf

theorem MutuallyInverse.iterate (h : MutuallyInverse n f g) (k : Nat) : MutuallyInverse n f^[k] g^[k] := by
  induction k with
  | zero => exact ⟨fun _ hz => hz, fun _ hz => hz, fun _ _ => rfl, fun _ _ => rfl⟩
  | succ k ih =>
    rw [Function.iterate_succ, Function.iterate_succ']
    exact h.comp ih

/-- A permutation of the `n`-bit words that repeats a value has first come back to where it started. -/
theorem MutuallyInverse.iterate_sub_eq (h : MutuallyInverse n f g) (hz : z ∈ nBitWords n) {i j : Nat} (hij : i ≤ j)
    (heq : f^[i] z = f^[j] z) : f^[j - i] z = z := by
  refine (h.iterate i).left_inv.injOn (h.mapsTo.iterate (j - i) hz) hz ?_
  rw [← Function.iterate_add_apply, Nat.add_sub_cancel' hij, heq]

/-- The values that a walk from a value in range rejects are pairwise distinct: it would have ended where it started. -/
theorem MutuallyInverse.rejected_injOn (h : MutuallyInverse n f g) (hz : z ∈ nBitWords n) (hle : z ≤ max)
    (hfirst : FirstInRange f max z v c) : Set.InjOn (fun j => (f^[j] z).toNat) (Finset.Ico 1 c) := by
  obtain ⟨-, -, -, hout⟩ := hfirst
  rw [Finset.coe_Ico]
  intro i hi j hj heq
  wlog hij : i < j generalizing i j
  · by_contra hne
    exact hne (this hj hi heq.symm (by omega)).symm
  obtain ⟨-, hjc⟩ := hj
  have hback := h.iterate_sub_eq hz hij.le (BitVec.eq_of_toNat_eq heq)
  exact hout (j - i) (by omega) (by omega) (hback.symm ▸ hle) |>.elim

/-- The rejected values lie above the bound, so a walk makes at most `2^n - max` passes (45_permutation.md R283). -/
theorem MutuallyInverse.count_le (h : MutuallyInverse n f g) (hmax : max ∈ nBitWords n) (hle : z ≤ max)
    (hfirst : FirstInRange f max z v c) : c ≤ 2 ^ n - max.toNat := by
  have hz : z ∈ nBitWords n := Nat.lt_of_le_of_lt hle hmax
  have hinj := h.rejected_injOn hz hle hfirst
  obtain ⟨-, -, -, hout⟩ := hfirst
  have hmaps : Set.MapsTo (fun j => (f^[j] z).toNat) (Finset.Ico 1 c) (Finset.Ioo max.toNat (2 ^ n)) := by
    intro j hj
    rw [Finset.coe_Ico] at hj
    rw [Finset.coe_Ioo]
    exact ⟨BitVec.not_le.mp (hout j hj.1 hj.2), h.mapsTo.iterate j hz⟩
  have hcard := Finset.card_le_card_of_injOn _ hmaps hinj
  rw [Nat.card_Ico, Nat.card_Ioo] at hcard
  have hlt : max.toNat < 2 ^ n := hmax
  omega

/-- The inverse walk leads from the value back to the start in the same number of passes (45_permutation.md R282): it
passes the values of the walk in reverse. -/
theorem MutuallyInverse.firstInRange_inv (h : MutuallyInverse n f g) (hz : z ∈ nBitWords n) (hle : z ≤ max)
    (hfirst : FirstInRange f max z v c) : FirstInRange g max v z c := by
  obtain ⟨h1, rfl, -, hout⟩ := hfirst
  have hback (j : Nat) (hj : j ≤ c) : g^[j] (f^[c] z) = f^[c - j] z := by
    rw [← Nat.add_sub_cancel' hj, Function.iterate_add_apply, Nat.add_sub_cancel_left]
    exact (h.iterate j).left_inv (h.mapsTo.iterate (c - j) hz)
  refine ⟨h1, by rw [hback c le_rfl, Nat.sub_self, Function.iterate_zero_apply], hle, fun j hj hjc => ?_⟩
  rw [hback j hjc.le]
  exact hout (c - j) (by omega) (by omega)

end FirstInRange

/-! ### The walks -/

section Walks

variable {s : State} {p x v : Word} {c : Nat}

theorem State.walkFwd_eq_some_iff :
    s.walkFwd p = some (v, c) ↔ FirstInRange s.passFwd s.max p v c ∧ c ≤ passLimit s.width :=
  rejectionLoop_eq_some_iff

theorem State.walkInv_eq_some_iff :
    s.walkInv x = some (v, c) ↔ FirstInRange s.passInv s.max x v c ∧ c ≤ passLimit s.width :=
  rejectionLoop_eq_some_iff

theorem State.GeneratorInv.exists_walkFwd (hs : s.GeneratorInv) (hp : p ≤ s.max) : ∃ v c, s.walkFwd p = some (v, c) := by
  obtain ⟨⟨v, c⟩, h⟩ := Option.ne_none_iff_exists'.mp (hs.walkFwd_ne_none hp)
  exact ⟨v, c, h⟩

theorem State.GeneratorInv.exists_walkInv (hs : s.GeneratorInv) (hx : x ≤ s.max) : ∃ v c, s.walkInv x = some (v, c) := by
  obtain ⟨⟨v, c⟩, h⟩ := Option.ne_none_iff_exists'.mp (hs.walkInv_ne_none hx)
  exact ⟨v, c, h⟩

theorem State.walkFwd_le (h : s.walkFwd p = some (v, c)) : v ≤ s.max := (walkFwd_eq_some_iff.mp h).1.le

theorem State.walkInv_le (h : s.walkInv x = some (v, c)) : v ≤ s.max := (walkInv_eq_some_iff.mp h).1.le

/-- UNDO's walk from the value of NEXT's leads back to its position. -/
theorem State.GeneratorInv.walkInv_of_walkFwd (hs : s.GeneratorInv) (hp : p ≤ s.max) (h : s.walkFwd p = some (v, c)) :
    s.walkInv v = some (p, c) := by
  obtain ⟨hfirst, hc⟩ := walkFwd_eq_some_iff.mp h
  exact walkInv_eq_some_iff.mpr ⟨hs.mutuallyInverse.firstInRange_inv (hs.mem_of_le hp) hp hfirst, hc⟩

/-- NEXT's walk from the position that UNDO's found leads back to the value. -/
theorem State.GeneratorInv.walkFwd_of_walkInv (hs : s.GeneratorInv) (hx : x ≤ s.max) (h : s.walkInv x = some (p, c)) :
    s.walkFwd p = some (x, c) := by
  obtain ⟨hfirst, hc⟩ := walkInv_eq_some_iff.mp h
  exact walkFwd_eq_some_iff.mpr ⟨hs.mutuallyInverse.symm.firstInRange_inv (hs.mem_of_le hx) hx hfirst, hc⟩

theorem State.GeneratorInv.walkFwd_count_le (hs : s.GeneratorInv) (hp : p ≤ s.max) (h : s.walkFwd p = some (v, c)) :
    1 ≤ c ∧ c ≤ 2 ^ s.width - s.max.toNat := by
  obtain ⟨hfirst, -⟩ := walkFwd_eq_some_iff.mp h
  exact ⟨hfirst.1, hs.mutuallyInverse.count_le (hs.mem_of_le (BitVec.le_refl _)) hp hfirst⟩

theorem State.GeneratorInv.walkInv_count_le (hs : s.GeneratorInv) (hx : x ≤ s.max) (h : s.walkInv x = some (v, c)) :
    1 ≤ c ∧ c ≤ 2 ^ s.width - s.max.toNat := by
  obtain ⟨hfirst, -⟩ := walkInv_eq_some_iff.mp h
  exact ⟨hfirst.1, hs.mutuallyInverse.symm.count_le (hs.mem_of_le (BitVec.le_refl _)) hx hfirst⟩

/-- The bound of R283 is at most half of the words of the width (45_permutation.md R271). -/
theorem State.GeneratorInv.above_max_le (hs : s.GeneratorInv) (hw : 2 ≤ s.width) :
    2 ^ s.width - s.max.toNat ≤ 2 ^ (s.width - 1) := by
  have hmax : 2 ^ (s.width - 1) ≤ s.max.toNat :=
    hs.width_eq ▸ two_pow_le_of_two_le_bitwidth (hs.width_eq ▸ hw)
  have hpow : 2 ^ (s.width - 1) * 2 = 2 ^ s.width := Nat.pow_pred_mul (by omega)
  omega

theorem State.GeneratorInv.above_max_eq_one (hs : s.GeneratorInv) (hmax : s.max = mask s.width) :
    2 ^ s.width - s.max.toNat = 1 := by
  have hpos : 0 < 2 ^ s.width := Nat.two_pow_pos _
  rw [hmax, toNat_mask hs.width_max]
  omega

end Walks

/-- Settles O49: a walk rejects each value above the bound at most once. -/
theorem walksEndWithinTheBound : Obligations.WalksEndWithinTheBound := by
  intro s p hs hp
  obtain ⟨v, c, hfwd⟩ := hs.exists_walkFwd hp
  obtain ⟨w, d, hinv⟩ := hs.exists_walkInv hp
  obtain ⟨hc1, hc⟩ := hs.walkFwd_count_le hp hfwd
  obtain ⟨hd1, hd⟩ := hs.walkInv_count_le hp hinv
  refine ⟨v, c, w, d, hfwd, hinv, hc, hd, hs.above_max_le, fun hmax => ?_⟩
  rw [hs.above_max_eq_one hmax] at hc hd
  exact ⟨le_antisymm hc hc1, le_antisymm hd hd1⟩

end Sys2Proof.Machine
end

section
/-! PROOFS. The commands of the PermutationEngine (45_permutation.md R273, R277, R280, R284, R285). -/

namespace Sys2Proof.Machine

open Sys2Proof Sys2Proof.Claims

/-! ### INIT -/

section

variable {s : State} {p : Pending} (hp : s.pend = some p)

include hp

theorem exec_init_latched : exec .init s = withDraws (4 * (bitwidth p.operand + 1)) s fun ds u =>
    .next ((u.install p.operand ds).commit (BitVec.ofNat 64 (4 * (bitwidth p.operand + 1)))) :=
  (exec_init s).trans (runLatched_eq hp rfl rfl)

/-- With its draws at hand INIT commits the GeneratorState built from them, whatever was there before. -/
theorem exec_init_enough (hdraws : 4 * (bitwidth p.operand + 1) ≤ s.taken.length + s.entropy.length) :
    exec .init s = .next { done s s.result (BitVec.ofNat 64 (4 * (bitwidth p.operand + 1))) with
      bank := buildBank (bitwidth p.operand) ((s.taken ++ s.entropy).take (4 * (bitwidth p.operand + 1)))
      max := p.operand
      bits := BitVec.ofNat 7 (bitwidth p.operand)
      position := 0
      status := { s.status with err := .ok, busy := false, ready := true }
      taken := []
      entropy := s.entropy.drop (4 * (bitwidth p.operand + 1) - s.taken.length) } :=
  (exec_init_latched hp).trans (withDraws_enough hdraws)

/-- With too few draws it holds them and waits. -/
theorem exec_init_short (hdraws : s.taken.length + s.entropy.length < 4 * (bitwidth p.operand + 1)) :
    exec .init s = .next { s with taken := s.taken ++ s.entropy, entropy := [] } :=
  (exec_init_latched hp).trans (withDraws_short hdraws)

end

/-- The bank of the `max = 3` fixture (95_test_vectors.md §2.3). -/
theorem buildBank_fixture3 :
    ((buildBank 2 (f1Draws 12)).toList.map fun g => (g.m.toList.take 2, g.minv.toList.take 2, g.mult, g.imult)) =
      [([0b01, 0b10], [0b01, 0b10], 0xDAA66D2C7DDF743F, 0x509F814B33127BBF),
       ([0b01, 0b11], [0b01, 0b11], 0xB54CDA58FBBEE87F, 0xF004E65D74F8D77F),
       ([0b11, 0b10], [0b11, 0b10], 0x8FF34785799E5CBD, 0xC58A806E665B7E95),
       ([0b11, 0b01], [0b10, 0b11], 0x6A99B4B1F77DD0FD, 0x940FB5EC4A70CC55)] := by
  decide +kernel

/-- Settles O26: the row of the opcode 0x10, no check, and the draws: enough of them or too few. -/
theorem initCommand : Obligations.InitCommand :=
  ⟨commandWords_of_opcode (op := 0x10) rfl, answeredWith_of_check fun _ => rfl, fun _ _ => exec_init_enough,
    fun _ _ => exec_init_short, by decide, by decide, by decide, buildBank_fixture3⟩

/-! ### NEXT -/

/-- NEXT commits the answer of its walk and advances POSITION. -/
theorem exec_next_of_walkFwd {s : State} {p : Pending} {v : Word} {c : Nat} (hp : s.pend = some p)
    (hr : s.status.ready = true) (hw : s.walkFwd s.position = some (v, c)) :
    exec .next s = .next { done s v (BitVec.ofNat 64 c) with
      position := if s.position < s.max then s.position + 1 else 0 } := by
  refine (exec_next s).trans (runLatched_eq hp (check_ready hr rfl rfl) ?_)
  rw [hw]
  rfl

/-- Settles O27: the row of the opcode 0x11, the check on READY, and the walk, which ends in every GeneratorState. -/
theorem nextCommand : Obligations.NextCommand := by
  refine ⟨commandWords_of_opcode (op := 0x11) rfl, answeredWith_of_check fun _ => check_eq_noinitOnly rfl rfl rfl,
    fun s p hp hr hs => ?_, by decide +kernel⟩
  obtain ⟨v, c, hw⟩ := hs.exists_walkFwd hs.position_le
  obtain ⟨hfirst, -⟩ := State.walkFwd_eq_some_iff.mp hw
  have hle := hfirst.le
  have hpos := hs.position_le
  exact ⟨v, c, hfirst, exec_next_of_walkFwd hp hr hw, hle, fun hmax => ⟨by bv_omega, by bv_omega⟩,
    fun hmax => hfirst.eq_one (by bv_omega)⟩

/-! ### UNDO -/

/-- UNDO needs READY and an operand of at most MAX (30_encoding.md R109, R110). -/
theorem check_undo (x : Word) (s : State) :
    check .undo x s =
      if s.status.ready = false then some .noinit else if s.max < x then some .range else none := by
  cases hr : s.status.ready with
  | false => exact check_noinit rfl hr
  | true => simp [check, hr, fieldOutOfRange, Instr.wellFormed, operandCheck]

/-- UNDO commits the answer of its walk. -/
theorem exec_undo_of_walkInv {s : State} {p : Pending} {v : Word} {c : Nat} (hp : s.pend = some p)
    (hr : s.status.ready = true) (hle : p.operand ≤ s.max) (hw : s.walkInv p.operand = some (v, c)) :
    exec .undo s = .next (done s v (BitVec.ofNat 64 c)) := by
  have hc : check .undo p.operand s = none := by simp [check_undo, hr, BitVec.not_lt.mpr hle]
  refine (exec_undo s).trans (runLatched_eq hp hc ?_)
  rw [hw]
  rfl

/-- A change of the state that the latch, the checks and the abort do not see, and that the body carries through, changes
nothing else in a latched run. -/
theorem runLatched_mapNext {i : Instr} {s : State} {f : State → State} {body body' : Word → Out}
    (hpend : (f s).pend = s.pend) (hcheck : ∀ x, check i x (f s) = check i x s)
    (habort : ∀ e, (f s).abort e = f (s.abort e)) (hbody : ∀ x, body' x = mapNext f (body x)) :
    runLatched i (f s) body' = mapNext f (runLatched i s body) := by
  cases hp : s.pend with
  | none =>
    rw [runLatched_empty hp, runLatched_empty (hpend.trans hp)]
    rfl
  | some p =>
    have hp' := hpend.trans hp
    cases hc : check i p.operand s with
    | some e =>
      rw [runLatched_rejected hp hc, runLatched_rejected hp' ((hcheck _).trans hc), habort]
      rfl
    | none => rw [runLatched_accepted hp hc, runLatched_accepted hp' ((hcheck _).trans hc), hbody]

/-- A state with another POSITION. -/
def State.withPosition (s : State) (q : Word) : State := { s with position := q }

/-- UNDO neither reads POSITION nor writes it (45_permutation.md R281). -/
theorem exec_undo_withPosition (s : State) (q : Word) :
    exec .undo (s.withPosition q) = mapNext (·.withPosition q) (exec .undo s) := by
  have hwalk (x : Word) : (s.withPosition q).walkInv x = s.walkInv x := rfl
  rw [exec_undo, exec_undo]
  refine runLatched_mapNext (f := (·.withPosition q)) rfl (fun x => check_congr rfl rfl rfl) (fun _ => rfl) fun x => ?_
  rw [hwalk]
  cases s.walkInv x <;> rfl

/-- Settles O28: the row of the opcode 0x12, the checks on READY and on the operand, and the walk of the inverse pass,
which ends in every GeneratorState. -/
theorem undoCommand : Obligations.UndoCommand := by
  refine ⟨commandWords_of_opcode (op := 0x12) rfl, answeredWith_of_check fun s => check_undo _ s,
    fun s p hp hr hs hle => ?_, exec_undo_withPosition, by decide +kernel⟩
  obtain ⟨v, c, hw⟩ := hs.exists_walkInv hle
  obtain ⟨hfirst, -⟩ := State.walkInv_eq_some_iff.mp hw
  have hv := hfirst.le
  exact ⟨v, c, hfirst, exec_undo_of_walkInv hp hr hle hw, fun hmax => by bv_omega,
    fun hmax => hfirst.eq_one (by bv_omega)⟩

/-! ### PASS_FWD and PASS_INV -/

/-- At width 1 the four Weyl steps cancel and the mix does nothing (45_permutation.md R284). -/
theorem State.GeneratorInv.passFwd_width_one {s : State} (hs : s.GeneratorInv) (hw : s.width = 1) {z : Word}
    (hz : z ∈ nBitWords 1) : s.passFwd z = z := by
  have hstage (k : Fin 4) {y : Word} (hy : y ∈ nBitWords 1) :
      stageFwd s.bank[k] 1 y = y ^^^ 1 ∧ y ^^^ 1 ∈ nBitWords 1 := by
    have hinv : s.bank[k].Inv 1 := hw ▸ hs.stages k
    have hfwd := stageFwd_width_one hinv hy
    exact ⟨hfwd, hfwd ▸ (hinv.mutuallyInverse (by decide)).mapsTo hy⟩
  obtain ⟨h0, hz0⟩ := hstage 0 hz
  obtain ⟨h1, hz1⟩ := hstage 1 hz0
  obtain ⟨h2, hz2⟩ := hstage 2 hz1
  obtain ⟨h3, -⟩ := hstage 3 hz2
  calc s.passFwd z
    _ = mixApply (mixRow 1) 1 (stageFwd s.bank[(3 : Fin 4)] 1 (stageFwd s.bank[(2 : Fin 4)] 1
          (stageFwd s.bank[(1 : Fin 4)] 1 (stageFwd s.bank[(0 : Fin 4)] 1 (z &&& mask 1))))) := by
      rw [State.passFwd, hw]
      rfl
    _ = mixApply (mixRow 1) 1 (z ^^^ 1 ^^^ 1 ^^^ 1 ^^^ 1) := by
      rw [and_mask_of_mem (by decide) hz, h0, h1, h2, h3]
    _ = mixApply (mixRow 1) 1 z := by simp only [BitVec.xor_assoc, BitVec.xor_self, BitVec.xor_zero]
    _ = z := mixApply_width_one (mixRow_wf 1) hz

/-- Settles O29: the row of the opcode 0x35, the check on READY, the commit of one pass, and width 1. -/
theorem passFwdCommand : Obligations.PassFwdCommand :=
  ⟨commandWords_of_opcode (op := 0x35) rfl, answeredWith_of_check fun _ => check_eq_noinitOnly rfl rfl rfl,
    fun s _ hp hr => (exec_passFwd s).trans (runLatched_done hp (check_ready hr rfl rfl)),
    fun _ x hs hw => hs.passFwd_width_one hw (hw ▸ and_mask_mem hs.width_max x), by decide +kernel⟩

/-- Settles O30: the row of the opcode 0x36, the check on READY, the commit of one inverse pass, and the forward pass
undone. -/
theorem passInvCommand : Obligations.PassInvCommand :=
  ⟨commandWords_of_opcode (op := 0x36) rfl, answeredWith_of_check fun _ => check_eq_noinitOnly rfl rfl rfl,
    fun s _ hp hr => (exec_passInv s).trans (runLatched_done hp (check_ready hr rfl rfl)),
    fun _ x hs => hs.mutuallyInverse.left_inv (and_mask_mem hs.width_max x), by decide +kernel⟩

end Sys2Proof.Machine
end

section
/-! PROOFS. Consecutive NEXTs (45_permutation.md R279, R282): NEXT number `i` walks from the position `i` further on, modulo
`MAX + 1`, in a generator that no NEXT changes. -/

namespace Sys2Proof.Machine

open Sys2Proof Sys2Proof.Claims

/-! ### One NEXT of the idle block -/

theorem decodeWord_next : decodeWord 0x11 = .instr .next := decodeWord_eq_instr_iff.mpr rfl

/-- The state after an idle block with a generator is issued NEXT and executes it, where its walk answers `v` with `c`. -/
def State.afterNext (s : State) (v : Word) (c : Nat) : State :=
  { done s v (BitVec.ofNat 64 c) with position := if s.position < s.max then s.position + 1 else 0 }

theorem blockStep_issue_next {s : State} {v : Word} {c : Nat} (hb : s.status.busy = false) (hr : s.status.ready = true)
    (hw : s.walkFwd s.position = some (v, c)) : blockStep (s.issue 0x11) = .next (s.afterNext v c) := by
  rw [issue_accepted hb decodeWord_next (check_ready hr rfl rfl), blockStep_exec rfl decodeWord_next,
    exec_next_of_walkFwd (s := s.accept 0x11) rfl hr hw]
  rfl

/-- NEXT takes POSITION one on, modulo `MAX + 1` (45_permutation.md R278). -/
theorem toNat_advance {p max : Word} (h : p ≤ max) :
    (if p < max then p + 1 else 0).toNat = (p.toNat + 1) % (max.toNat + 1) := by
  have hle : p.toNat ≤ max.toNat := h
  split
  case isTrue hlt =>
    have hlt : p.toNat < max.toNat := hlt
    have hone : (p + 1).toNat = p.toNat + 1 := by bv_omega
    rw [hone, Nat.mod_eq_of_lt (Nat.succ_lt_succ hlt)]
  case isFalse hge =>
    have heq : p.toNat = max.toNat := Nat.le_antisymm hle (BitVec.not_lt.mp hge)
    rw [heq, Nat.mod_self]
    rfl

/-! ### The block after `k` NEXTs -/

/-- `t` is idle with the generator of `s` and with POSITION at `q`. -/
structure State.IdleAt (s t : State) (q : Word) : Prop where
  busy : t.status.busy = false
  ready : t.status.ready = true
  bank : t.bank = s.bank
  bits : t.bits = s.bits
  max : t.max = s.max
  position : t.position = q

theorem State.IdleAt.walkFwd {s t : State} {q : Word} (h : s.IdleAt t q) (p : Word) : t.walkFwd p = s.walkFwd p := by
  have hpass : t.passFwd = s.passFwd := by
    funext z
    rw [State.passFwd, State.passFwd, State.width, State.width, h.bank, h.bits]
  rw [State.walkFwd, State.walkFwd, State.width, State.width, hpass, h.bits, h.max]

theorem State.IdleAt.afterNexts_succ {s : State} {k : Nat} {q v : Word} {c : Nat} (h : s.IdleAt (afterNexts s k) q)
    (hw : s.walkFwd q = some (v, c)) : afterNexts s (k + 1) = (afterNexts s k).afterNext v c := by
  have hwalk : (afterNexts s k).walkFwd (afterNexts s k).position = some (v, c) := by rw [h.walkFwd, h.position, hw]
  rw [afterNexts, blockStep_issue_next h.busy h.ready hwalk]

/-- The position that NEXT number `k` from `s` reads. -/
def State.positionAfter (s : State) (k : Nat) : Word :=
  BitVec.ofNat 64 ((s.position.toNat + k) % (s.max.toNat + 1))

theorem State.toNat_positionAfter (s : State) (k : Nat) :
    (s.positionAfter k).toNat = (s.position.toNat + k) % (s.max.toNat + 1) := by
  have hlt : (s.position.toNat + k) % (s.max.toNat + 1) < s.max.toNat + 1 := Nat.mod_lt _ (Nat.succ_pos _)
  have hmax := s.max.isLt
  rw [positionAfter, BitVec.toNat_ofNat, Nat.mod_eq_of_lt (by omega)]

theorem State.positionAfter_le (s : State) (k : Nat) : s.positionAfter k ≤ s.max := by
  rw [BitVec.le_def, toNat_positionAfter]
  exact Nat.le_of_lt_succ (Nat.mod_lt _ (Nat.succ_pos _))

theorem State.positionAfter_zero {s : State} (h : s.position ≤ s.max) : s.positionAfter 0 = s.position := by
  refine BitVec.eq_of_toNat_eq ?_
  rw [toNat_positionAfter, Nat.add_zero, Nat.mod_eq_of_lt (Nat.lt_succ_of_le h)]

theorem State.positionAfter_succ (s : State) (k : Nat) :
    s.positionAfter (k + 1) = if s.positionAfter k < s.max then s.positionAfter k + 1 else 0 := by
  refine BitVec.eq_of_toNat_eq ?_
  rw [toNat_advance (s.positionAfter_le k), toNat_positionAfter, toNat_positionAfter, Nat.mod_add_mod, Nat.add_assoc]

theorem State.positionAfter_add_period (s : State) (k : Nat) :
    s.positionAfter (k + (s.max.toNat + 1)) = s.positionAfter k := by
  rw [positionAfter, positionAfter, ← Nat.add_assoc, Nat.add_mod_right]

/-- The positions of `MAX + 1` consecutive NEXTs are pairwise distinct. -/
theorem State.positionAfter_ne (s : State) {i j : Nat} (hij : i < j) (hj : j ≤ s.max.toNat) :
    s.positionAfter i ≠ s.positionAfter j := by
  intro h
  have hmod : s.position.toNat + i ≡ s.position.toNat + j [MOD s.max.toNat + 1] := by
    rw [Nat.ModEq, ← toNat_positionAfter, ← toNat_positionAfter, h]
  exact hij.ne (Nat.ModEq.eq_of_lt_of_lt (Nat.ModEq.add_left_cancel' _ hmod) (by omega) (by omega))

section

variable {s : State} (hb : s.status.busy = false) (hr : s.status.ready = true) (hs : s.GeneratorInv)

include hb hr hs

/-- After `k` NEXTs the block is idle with its generator, and POSITION is `k` further on. -/
theorem afterNexts_idleAt (k : Nat) : s.IdleAt (afterNexts s k) (s.positionAfter k) := by
  induction k with
  | zero => exact ⟨hb, hr, rfl, rfl, rfl, (State.positionAfter_zero hs.position_le).symm⟩
  | succ k ih =>
    obtain ⟨v, c, hw⟩ := hs.exists_walkFwd (s.positionAfter_le k)
    rw [ih.afterNexts_succ hw]
    refine ⟨rfl, ih.ready, ih.bank, ih.bits, ih.max, ?_⟩
    rw [s.positionAfter_succ, ← ih.position, ← ih.max]
    rfl

/-- NEXT number `k` returns the value of the walk from its position. -/
theorem walkFwd_positionAfter (k : Nat) : ∃ c, s.walkFwd (s.positionAfter k) = some (nextValue s k, c) := by
  have hk := afterNexts_idleAt hb hr hs k
  obtain ⟨v, c, hw⟩ := hs.exists_walkFwd (s.positionAfter_le k)
  refine ⟨c, ?_⟩
  rw [nextValue, hk.afterNexts_succ hw, hw]
  rfl

end

/-! ### The permutation -/

/-- Settles O47: the walk from a position is undone by the inverse walk, so distinct positions give distinct values, and
the positions have period `MAX + 1`. -/
theorem nextEnumeratesAPermutation : Obligations.NextEnumeratesAPermutation := by
  intro s hb hr hs
  have hwalk := walkFwd_positionAfter hb hr hs
  refine ⟨fun i j hij hj heq => ?_, fun i => ?_, fun i => ?_⟩
  · obtain ⟨c, hi⟩ := hwalk i
    obtain ⟨d, hj'⟩ := hwalk j
    have hback := hs.walkInv_of_walkFwd (s.positionAfter_le i) hi
    rw [heq, hs.walkInv_of_walkFwd (s.positionAfter_le j) hj', Option.some.injEq, Prod.mk.injEq] at hback
    exact s.positionAfter_ne hij hj hback.left.symm
  · obtain ⟨c, hi⟩ := hwalk i
    exact State.walkFwd_le hi
  · obtain ⟨c, hi⟩ := hwalk i
    obtain ⟨d, hi'⟩ := hwalk (i + (s.max.toNat + 1))
    rw [s.positionAfter_add_period, hi, Option.some.injEq, Prod.mk.injEq] at hi'
    exact hi'.left.symm

/-- Settles O48: the walks of NEXT and UNDO undo each other, pass by pass, and NEXT number `i` from a fresh state walks
from `i` modulo `MAX + 1`. -/
theorem undoRecoversThePosition : Obligations.UndoRecoversThePosition := by
  refine fun s hs => ⟨fun p hp => ?_, fun x hx => ?_, fun hb hr h0 i => ?_⟩
  · obtain ⟨v, c, hw⟩ := hs.exists_walkFwd hp
    exact ⟨v, c, State.walkFwd_le hw, hw, hs.walkInv_of_walkFwd hp hw⟩
  · obtain ⟨p, c, hw⟩ := hs.exists_walkInv hx
    refine ⟨p, c, State.walkInv_le hw, hw, hs.walkFwd_of_walkInv hx hw, fun q d hq hwq => ?_⟩
    have hback := hs.walkInv_of_walkFwd hq hwq
    rw [hw, Option.some.injEq, Prod.mk.injEq] at hback
    exact hback.left.symm
  · obtain ⟨c, hw⟩ := walkFwd_positionAfter hb hr hs i
    have hpos : s.positionAfter i = BitVec.ofNat 64 (i % (s.max.toNat + 1)) := by
      simp [State.positionAfter, h0]
    exact ⟨c, hpos ▸ hs.walkInv_of_walkFwd (s.positionAfter_le i) hw⟩

end Sys2Proof.Machine
end

section
/-! PROOFS. The control commands (46_control.md R310, R311), which no check rejects. -/

namespace Sys2Proof.Machine

open Sys2Proof Sys2Proof.Claims

/-! ### A command issued to the idle block and executed -/

/-- The block's turn after the idle block has accepted a command is the command's meaning on the state of the acceptance. -/
theorem blockStep_issue_accepted {s : State} {v : Word} {i : Instr} (hb : s.status.busy = false)
    (hd : decodeWord v = .instr i) (hc : check i s.operand s = none) : blockStep (s.issue v) = exec i (s.accept v) := by
  rw [issue_accepted hb hd hc]
  exact blockStep_exec rfl hd

/-! ### NOP -/

theorem check_nop (x : Word) (s : State) : check .nop x s = none := rfl

theorem decodeWord_nop : decodeWord 0x00 = .instr .nop := decodeWord_eq_instr_iff.mpr rfl

/-- NOP commits with RESULT kept and COUNT 0 (46_control.md R310). -/
theorem exec_nop_latched {s : State} {p : Pending} (hp : s.pend = some p) :
    exec .nop s = .next (done s s.result 0) :=
  (exec_nop s).trans (runLatched_eq hp (check_nop _ s) rfl)

/-- An idle block that is issued NOP and executes it keeps all but COUNT, ERR and the latch. -/
theorem blockStep_issue_nop {s : State} (hb : s.status.busy = false) :
    blockStep (s.issue 0x00) = .next (done s s.result 0) :=
  (blockStep_issue_accepted hb decodeWord_nop (check_nop _ s)).trans (exec_nop_latched rfl)

/-- Settles O11: the row of the opcode 0x00, no check, and the commit, which writes BUSY as the idle block had it. -/
theorem nopCommand : Obligations.NopCommand := by
  refine ⟨commandWords_of_opcode (op := 0x00) rfl, answeredWith_of_check fun s => check_nop _ s,
    fun _ _ => exec_nop_latched, fun s hb _ => ⟨_, blockStep_issue_nop hb, ?_, rfl⟩⟩
  show { s.status with err := .ok, busy := false } = { s.status with err := ErrCode.ok }
  rw [← hb]

/-! ### CLRERR -/

theorem check_clrerr (x : Word) (s : State) : check .clrerr x s = none := rfl

theorem decodeWord_clrerr : decodeWord 0x01 = .instr .clrerr := decodeWord_eq_instr_iff.mpr rfl

/-- CLRERR commits with RESULT kept, COUNT 0 and OVR cleared (46_control.md R311). -/
theorem exec_clrerr_latched {s : State} {p : Pending} (hp : s.pend = some p) :
    exec .clrerr s = .next { done s s.result 0 with
      status := { s.status with err := .ok, busy := false, ovr := false } } :=
  (exec_clrerr s).trans (runLatched_eq hp (check_clrerr _ s) rfl)

/-- An idle block that is issued CLRERR and executes it keeps all but COUNT, ERR, OVR and the latch. -/
theorem blockStep_issue_clrerr {s : State} (hb : s.status.busy = false) :
    blockStep (s.issue 0x01) = .next { done s s.result 0 with
      status := { s.status with err := .ok, busy := false, ovr := false } } :=
  (blockStep_issue_accepted hb decodeWord_clrerr (check_clrerr _ s)).trans (exec_clrerr_latched rfl)

theorem bit_zero_status_toWord (st : Status) : bit st.toWord 0 = st.busy := bit_status_toWord st 0

theorem bit_one_status_toWord (st : Status) : bit st.toWord 1 = st.ready := bit_status_toWord st 1

/-- Settles O12: the row of the opcode 0x01, no check, and the commit. The word 0x0006 says that the block is idle and
READY, and READY is the one bit of it that the commit keeps. -/
theorem clrerrCommand : Obligations.ClrerrCommand := by
  refine ⟨commandWords_of_opcode (op := 0x01) rfl, answeredWith_of_check fun s => check_clrerr _ s,
    fun _ _ => exec_clrerr_latched, fun _ => issue_busy, fun s hw => ?_⟩
  have hbusy : s.status.busy = false := by rw [← bit_zero_status_toWord, hw]; rfl
  have hready : s.status.ready = true := by rw [← bit_one_status_toWord, hw]; rfl
  refine ⟨_, blockStep_issue_clrerr hbusy, ?_⟩
  show Status.toWord ⟨false, s.status.ready, false, .ok⟩ = 0x0002
  rw [hready]
  rfl

end Sys2Proof.Machine
end

section
/-! PROOFS. The exceptions (60_exceptions.md): which code an opcode can raise (R322), that an accepted command is never
turned back (R324), and that every outcome is a defined step (R327). -/

namespace Sys2Proof.Machine

open Sys2Proof Sys2Proof.Claims

/-! ### The codes of an opcode -/

/-- On an idle block the code of a rejection is the one that `decode(v)` gives (30_encoding.md R110). -/
theorem issue_eq_rejectedWith_iff {s : State} {v : Word} {e : ErrCode} (hb : s.status.busy = false) :
    s.issue v = rejectedWith s e ↔ specDecode s v = some e := by
  rw [commandWriteFollowsTheDecodeOrder s v hb]
  cases hd : specDecode s v with
  | none =>
    refine iff_of_false (fun h => ?_) nofun
    exact absurd (hb.symm.trans (congrArg (·.status.busy) h).symm) Bool.false_ne_true
  | some d => exact ⟨fun h => congrArg (fun t : State => some t.status.err) h, fun h => Option.some.inj h ▸ rfl⟩

/-- The table of 60_exceptions.md R322 by opcode number, a disjunct for each of its columns but ILLEGAL. -/
def OpcodeCanRaise (op : BitVec 8) (e : ErrCode) : Prop :=
  e = .reserved ∨ (e = .noinit ∧ needsReadyOf op = true) ∨ (e = .even ∧ op = 0x20) ∨ (e = .range ∧ op = 0x12) ∨
    (e = .field ∧ op ∈ ([0x40, 0x42, 0x50, 0x51, 0x52, 0x53] : List (BitVec 8)))

theorem opcodeNumber_build {r : OpcodeRow} (hr : r ∈ opcodeTable) (k : BitVec 2) (sel : Select) (row : BitVec 6) :
    opcodeNumber (r.build k sel row) = r.op :=
  opField_encode_build hr k sel row

theorem opcodeNumber_legal (i : Instr) : opcodeNumber i ∈ legalOpcodes := by
  obtain ⟨r, hr, k, sel, row, rfl⟩ := exists_build i
  rw [opcodeNumber_build hr, legalOpcodes_eq]
  exact List.mem_map_of_mem hr

/-- The rows of R322 depend on the opcode alone. -/
theorem mem_codesOf_iff (i : Instr) (e : ErrCode) : e ∈ codesOf i ↔ OpcodeCanRaise (opcodeNumber i) e := by
  obtain ⟨r, hr, k, sel, row, rfl⟩ := exists_build i
  rw [opcodeNumber_build hr]
  fin_cases hr <;> simp [codesOf, OpcodeCanRaise, needsReadyOf]

/-- `decode(v)` makes each check for the opcodes of its column only. -/
theorem canRaise_of_specDecode {s : State} {v : Word} {op : BitVec 8} {e : ErrCode} (hop : v.extractLsb' 0 8 = op)
    (hlegal : op ∈ legalOpcodes) (h : specDecode s v = some e) : OpcodeCanRaise op e := by
  simp only [specDecode, hop] at h
  split_ifs at h with hunused hready hfield heven hrange hsize <;> cases h
  · exact .inl rfl
  · exact .inr (.inl ⟨rfl, hready.1⟩)
  · refine .inr (.inr (.inr (.inr ⟨rfl, ?_⟩)))
    rcases hfield with ⟨rfl, -⟩ | ⟨rfl, -⟩ | ⟨rfl | rfl, -⟩ <;> decide
  · exact .inr (.inr (.inl ⟨rfl, heven.1⟩))
  · exact .inr (.inr (.inr (.inl ⟨rfl, hrange.1⟩)))
  · refine .inr (.inr (.inr (.inr ⟨rfl, ?_⟩)))
    rcases hsize with ⟨rfl | rfl, -⟩ <;> decide

/-! ### A word for each column -/

/-- The word of an opcode with every bit of the fields it uses set. -/
def fullFieldsWord (op : BitVec 8) : Word := op.setWidth 64 ||| usedFieldsOf op

/-- The reset block answers an opcode with the reserved bit 11 set by ERR_RESERVED (30_encoding.md R107). -/
theorem specDecode_reservedBit : ∀ op ∈ legalOpcodes,
    opField (op.setWidth 64 ||| 0x800) = op ∧ specDecode State.reset (op.setWidth 64 ||| 0x800) = some .reserved := by
  decide

theorem opField_fullFieldsWord : ∀ op ∈ legalOpcodes, opField (fullFieldsWord op) = op := by
  decide

/-- Before an INIT a command that needs READY is rejected for that. -/
theorem specDecode_noinit : ∀ op ∈ legalOpcodes, needsReadyOf op = true →
    specDecode State.reset (fullFieldsWord op) = some .noinit := by
  decide

/-- ROW = 63 is above the width 2 and above 6, K = 3 is no scratch bank, and the operand 0 is no size. -/
theorem specDecode_field : ∀ op ∈ ([0x40, 0x42, 0x50, 0x51, 0x52, 0x53] : List (BitVec 8)),
    specDecode fixture3 (fullFieldsWord op) = some .field := by
  decide

theorem exists_specDecode_of_canRaise {op : BitVec 8} {e : ErrCode} (hlegal : op ∈ legalOpcodes)
    (h : OpcodeCanRaise op e) :
    ∃ (s : State) (v : Word), s.status.busy = false ∧ opField v = op ∧ specDecode s v = some e := by
  rcases h with rfl | ⟨rfl, hready⟩ | ⟨rfl, rfl⟩ | ⟨rfl, rfl⟩ | ⟨rfl, hop⟩
  · exact ⟨State.reset, _, rfl, specDecode_reservedBit op hlegal⟩
  · exact ⟨State.reset, _, rfl, opField_fullFieldsWord op hlegal, specDecode_noinit op hlegal hready⟩
  · exact ⟨State.reset, 0x20, rfl, rfl, by decide⟩
  · exact ⟨{ fixture3 with operand := 4 }, 0x12, rfl, rfl, by decide⟩
  · exact ⟨fixture3, _, rfl, opField_fullFieldsWord op hlegal, specDecode_field op hop⟩

/-- Settles O8: by the opcode, whose checks are those of its columns, with a word that fails each of them. -/
theorem codesEachCommandCanRaise : Obligations.CodesEachCommandCanRaise := by
  refine ⟨fun i e => ?_, fun s v e hb hop => ?_⟩
  · rw [mem_codesOf_iff]
    constructor
    · intro h
      obtain ⟨s, v, hb, hop, hd⟩ := exists_specDecode_of_canRaise (opcodeNumber_legal i) h
      exact ⟨s, v, hb, hop, (issue_eq_rejectedWith_iff hb).mpr hd⟩
    · rintro ⟨s, v, hb, hop, h⟩
      exact canRaise_of_specDecode hop (opcodeNumber_legal i) ((issue_eq_rejectedWith_iff hb).mp h)
  · rw [issue_eq_rejectedWith_iff hb, specDecode_illegal s hop, Option.some.injEq, eq_comm]

/-! ### The block agent's step on a latched command -/

/-- Settles O55: of the moves of a command whose checks hold, the invariant leaves the commit and the wait for draws. -/
theorem noErrorAfterAcceptance : Obligations.NoErrorAfterAcceptance := by
  intro s t hs hb h
  obtain ⟨p, hp⟩ := Option.isSome_iff_exists.mp (hs.latch.busy_iff ▸ hb)
  obtain ⟨i, hd, hcheck, -⟩ := hs.latch.accepted p hp
  obtain ⟨q, hq, hm⟩ := exec_move ((blockStep_exec hp hd).symm.trans h)
  obtain rfl : p = q := Option.some.inj (hp.symm.trans hq)
  cases hm with
  | abort e he => exact absurd (he.symm.trans hcheck) (Option.some_ne_none e)
  | wait hc hlen => exact .inr ⟨hb, rfl, rfl, p, i, hp, hd, hlen⟩
  | loop hc hi => exact absurd hi (hs.not_loop hc)
  | commit u c hc hw => exact .inl ⟨rfl, rfl, rfl⟩

/-- The block agent's turn goes on, whatever the latch holds. -/
theorem blockStep_goesOn (s : State) : GoesOn (blockStep s) := by
  cases hp : s.pend with
  | none => exact ⟨s, blockStep_idle hp⟩
  | some p =>
    cases hd : decodeWord p.word with
    | rejected e => exact ⟨_, blockStep_undecoded hp hd⟩
    | instr i => exact (blockStep_exec hp hd).symm ▸ exec_goesOn hp i

/-- Settles O51: an event of the environment always has a next state, and so has the block agent's turn. -/
theorem everyStepGoesOn : Obligations.EveryStepGoesOn := by
  refine ⟨fun s => ?_, fun s hin hp => (step_nil hin).trans (blockStep_idle hp)⟩
  rcases step_cases s with ⟨-, hs⟩ | ⟨rest, -, hs⟩ | ⟨a, rest, -, hs⟩ | ⟨rest, -, hs⟩ | ⟨w, rest, -, hs⟩ | ⟨rest, -, hs⟩
  · exact hs ▸ blockStep_goesOn s
  · exact hs ▸ blockStep_goesOn _
  all_goals exact ⟨_, hs⟩

end Sys2Proof.Machine
end

section
/-! PROOFS. The hazards (70_reset_and_hazards.md): a CMD write to the busy block (R360), what a step of the busy block changes
(R362), and that no observation depends on the stage bank before an INIT (R352). -/

namespace Sys2Proof.Machine

open Sys2Proof Sys2Proof.Claims

/-! ### The busy block -/

/-- Settles O9: the write is the CMD write of a busy block, and of the moves that change OVR only CLRERR's commit and the
reset clear it. -/
theorem commandWhileBusyIsDropped : Obligations.CommandWhileBusyIsDropped := by
  refine ⟨fun s v hb => ?_, fun s t h hs ht => or_iff_not_imp_right.mpr fun hr => ?_⟩
  · calc s.busAccess (.write (Reg.offset .cmd) .w8 v)
      _ = { s.issue v with resp := some .ack } := busAccess_write s .cmd v
      _ = { s with status := { s.status with ovr := true }, resp := some .ack } := by rw [issue_busy hb]
  · obtain ⟨hset, -⟩ | ⟨-, hx⟩ := (step_move h).of_ovr_ne hr (by simp [hs, ht])
    · exact absurd (hset.symm.trans ht) nofun
    · exact hx

/-- Settles O58, by the moves of a step: with the invariant the busy block has one move that clears BUSY, the commit, and
every move that leaves BUSY set leaves the results, the latch, READY and ERR alone. -/
theorem resultsAppearOnlyAtTheCommit : Obligations.ResultsAppearOnlyAtTheCommit := by
  intro s t hs h hr hb
  cases step_move h with
  | committed p i u c ins hx hp hd hc hw => exact ⟨nofun, fun _ => ⟨rfl, hw.operand_eq, i, hx⟩⟩
  | aborted p e ins hp hbad => exact absurd hbad (hs.latch.not_aborted hp)
  | rejected v e ins rs hw hidle he => exact absurd (hb.symm.trans hidle) nofun
  | accepted v i ins rs hw hidle hd hc => exact absurd (hb.symm.trans hidle) nofun
  | reset ins hreset => exact absurd hreset hr
  | _ => exact ⟨fun _ => ⟨rfl, rfl, rfl, rfl, rfl, rfl, rfl, rfl, rfl, rfl⟩,
      fun hidle => absurd (hb.symm.trans hidle) nofun⟩

/-! ### A state with another stage bank -/

/-- A state with another stage bank. -/
def State.withBank (s : State) (b : Vector Stage 4) : State := { s with bank := b }

section WithBank

variable (b : Vector Stage 4)

theorem check_withBank (s : State) (i : Instr) (x : Word) : check i x (s.withBank b) = check i x s :=
  check_congr rfl rfl rfl

theorem setScratch_withBank (s : State) (k : Nat) (m : BitMatrix) :
    (s.withBank b).setScratch k m = (s.setScratch k m).withBank b := rfl

theorem commit_withBank (s : State) (c : Word) : (s.withBank b).commit c = (s.commit c).withBank b := rfl

/-- A CMD write neither reads nor writes the bank. -/
theorem issue_withBank (s : State) (v : Word) : (s.withBank b).issue v = (s.issue v).withBank b := by
  cases hb : s.status.busy with
  | true =>
    rw [issue_busy hb, issue_busy (s := s.withBank b) hb]
    rfl
  | false =>
    have hb' : (s.withBank b).status.busy = false := hb
    cases hd : decodeWord v with
    | rejected e =>
      rw [issue_undecoded hb hd, issue_undecoded hb' hd]
      rfl
    | instr i =>
      have hcheck : check i (s.withBank b).operand (s.withBank b) = check i s.operand s := check_withBank b s i s.operand
      cases hc : check i s.operand s with
      | some e =>
        rw [issue_rejected hb hd hc, issue_rejected hb' hd (hcheck.trans hc)]
        rfl
      | none =>
        rw [issue_accepted hb hd hc, issue_accepted hb' hd (hcheck.trans hc)]
        rfl

/-- No register shows the bank. -/
theorem readReg_withBank (s : State) (r : Reg) : (s.withBank b).readReg r = s.readReg r := by
  cases r <;> rfl

theorem writeReg_withBank (s : State) (v : Word) (r : Reg) :
    (s.withBank b).writeReg v r = (s.writeReg v r).withBank b := by
  cases r with
  | cmd => exact issue_withBank b s v
  | _ => rfl

/-- An access of the host neither reads nor writes the bank. -/
theorem busAccess_withBank (s : State) (a : Access) : (s.withBank b).busAccess a = (s.busAccess a).withBank b := by
  cases a with
  | read off width =>
    by_cases h : accessOk off width = true
    · simp only [State.busAccess, if_pos h, readReg_withBank]
      rfl
    · simp only [State.busAccess, if_neg h]
      rfl
  | write off width v =>
    by_cases h : accessOk off width = true
    · simp only [State.busAccess, if_pos h, writeReg_withBank]
      cases Reg.ofOffset off <;> rfl
    · simp only [State.busAccess, if_neg h]
      rfl

end WithBank

theorem issue_ready (s : State) (v : Word) : (s.issue v).status.ready = s.status.ready := by
  obtain ⟨-, h⟩ | ⟨-, e, h⟩ | ⟨-, i, -, -, h⟩ := issue_cases s v <;> rw [h] <;> rfl

theorem busAccess_ready (s : State) (a : Access) : (s.busAccess a).status.ready = s.status.ready := by
  obtain ⟨r, h | ⟨v, h⟩ | ⟨v, h⟩⟩ := busAccess_cases s a
  · rw [h]
  · rw [h]
    exact issue_ready s v
  · rw [h]

/-! ### The bank before an INIT -/

section BeforeInit

variable {s : State} {p : Pending} (b : Vector Stage 4)

/-- Two next states that differ in the bank only, while READY = 0. -/
theorem next_sameButBank {t : State} (hr : s.status.ready = false) (ht : t = s.withBank b) :
    SameButUnwrittenBank (.next s) (.next t) := by
  subst ht
  exact .inr ⟨hr, rfl⟩

/-- Latched runs of one command agree where their bodies do. -/
theorem runLatched_sameButBank {i : Instr} {body body' : Word → Out} (hp : s.pend = some p) (hr : s.status.ready = false)
    (hbody : ∀ x, SameButUnwrittenBank (body x) (body' x)) :
    SameButUnwrittenBank (runLatched i s body) (runLatched i (s.withBank b) body') := by
  have hp' : (s.withBank b).pend = some p := hp
  have hcheck := check_withBank b s i p.operand
  cases hc : check i p.operand s with
  | some e =>
    rw [runLatched_rejected hp hc, runLatched_rejected hp' (hcheck.trans hc)]
    exact next_sameButBank b hr rfl
  | none =>
    rw [runLatched_accepted hp hc, runLatched_accepted hp' (hcheck.trans hc)]
    exact hbody p.operand

/-- Draws of one number agree where what is done with them does. -/
theorem withDraws_sameButBank {need : Nat} {body : List Word → State → Out} (hr : s.status.ready = false)
    (hbody : ∀ ds u, u.status.ready = false → SameButUnwrittenBank (body ds u) (body ds (u.withBank b))) :
    SameButUnwrittenBank (withDraws need s body) (withDraws need (s.withBank b) body) := by
  by_cases hlen : s.taken.length + s.entropy.length < need
  · rw [withDraws_short hlen, withDraws_short (s := s.withBank b) hlen]
    exact next_sameButBank b hr rfl
  · rw [Nat.not_lt] at hlen
    rw [withDraws_enough hlen, withDraws_enough (s := s.withBank b) hlen]
    exact hbody _ (s.afterDraws need) hr

/-- While READY = 0 a command that needs READY ends as a rejection (log 3). -/
theorem exec_noinit {i : Instr} (hp : s.pend = some p) (hr : s.status.ready = false) (hi : needsReady i = true) :
    exec i s = .next (s.abort .noinit) := by
  obtain ⟨body, hm⟩ := exists_meaning i
  rw [hm.exec_eq]
  exact runLatched_rejected hp (check_noinit hi hr)

/-- A command that answers one next state keeps the states alike where that state does. -/
theorem exec_sameButBank_ofNext {i : Instr} {f : State → Word → State}
    (h : ∀ s, exec i s = runLatched i s fun x => .next (f s x)) (hp : s.pend = some p) (hr : s.status.ready = false)
    (hready : ∀ x, (f s x).status.ready = s.status.ready) (hf : ∀ x, f (s.withBank b) x = (f s x).withBank b) :
    SameButUnwrittenBank (exec i s) (exec i (s.withBank b)) := by
  rw [h, h]
  exact runLatched_sameButBank b hp hr fun x => next_sameButBank b ((hready x).trans hr) (hf x)

/-- A command that draws keeps the states alike where its commit does. -/
theorem exec_sameButBank_ofDraws {i : Instr} {need : Word → Nat} {f : Word → List Word → State → State}
    (h : ∀ s, exec i s = runLatched i s fun x => withDraws (need x) s fun ds u => .next (f x ds u))
    (hp : s.pend = some p) (hr : s.status.ready = false)
    (hf : ∀ x ds u, u.status.ready = false → SameButUnwrittenBank (.next (f x ds u)) (.next (f x ds (u.withBank b)))) :
    SameButUnwrittenBank (exec i s) (exec i (s.withBank b)) := by
  rw [h, h]
  exact runLatched_sameButBank b hp hr fun x => withDraws_sameButBank b hr (hf x)

/-- The commands that read the bank need READY, and INIT writes all of the bank at its commit. -/
theorem exec_sameButBank (hp : s.pend = some p) (hr : s.status.ready = false) (i : Instr) :
    SameButUnwrittenBank (exec i s) (exec i (s.withBank b)) := by
  cases i with
  | init => exact exec_sameButBank_ofDraws b exec_init hp hr fun x ds u hu => .inl rfl
  | nop => exact exec_sameButBank_ofNext b exec_nop hp hr (fun _ => rfl) fun _ => rfl
  | clrerr => exact exec_sameButBank_ofNext b exec_clrerr hp hr (fun _ => rfl) fun _ => rfl
  | modinv => exact exec_sameButBank_ofNext b exec_modinv hp hr (fun _ => rfl) fun _ => rfl
  | scrWr k row => exact exec_sameButBank_ofNext b (exec_scrWr k row) hp hr (fun _ => rfl) fun _ => rfl
  | scrRd k row => exact exec_sameButBank_ofNext b (exec_scrRd k row) hp hr (fun _ => rfl) fun _ => rfl
  | matmul => exact exec_sameButBank_ofNext b exec_matmul hp hr (fun _ => rfl) fun _ => rfl
  | genmat =>
    refine exec_sameButBank_ofDraws b exec_genmat hp hr fun x ds u hu => next_sameButBank b hu ?_
    rw [setScratch_withBank, setScratch_withBank, commit_withBank]
  | _ =>
    rw [exec_noinit hp hr rfl, exec_noinit (s := s.withBank b) hp hr rfl]
    exact next_sameButBank b hr rfl

theorem blockStep_sameButBank (hr : s.status.ready = false) :
    SameButUnwrittenBank (blockStep s) (blockStep (s.withBank b)) := by
  cases hp : s.pend with
  | none =>
    rw [blockStep_idle hp, blockStep_idle (s := s.withBank b) hp]
    exact next_sameButBank b hr rfl
  | some p =>
    have hp' : (s.withBank b).pend = some p := hp
    cases hd : decodeWord p.word with
    | rejected e =>
      rw [blockStep_undecoded hp hd, blockStep_undecoded hp' hd]
      exact next_sameButBank b hr rfl
    | instr i =>
      rw [blockStep_exec hp hd, blockStep_exec hp' hd]
      exact exec_sameButBank b hp hr i

end BeforeInit

/-- Settles O56, by the first event of the step: the block agent's turn keeps the states alike, no event of the host or of
the entropy source reads or writes the bank, and a reset writes all of it. -/
theorem bankIsUnobservableBeforeInit : Obligations.BankIsUnobservableBeforeInit := by
  intro s b hr
  change SameButUnwrittenBank (step s) (step (s.withBank b))
  rcases hin : s.inputs with _ | ⟨e, rest⟩
  · rw [step_nil hin, step_nil (s := s.withBank b) hin]
    exact blockStep_sameButBank b hr
  · have hin' : (s.withBank b).inputs = e :: rest := hin
    cases e with
    | block =>
      rw [step_block hin, step_block hin']
      exact blockStep_sameButBank (s := { s with inputs := rest }) b hr
    | access a =>
      rw [step_access hin, step_access hin']
      exact next_sameButBank b ((busAccess_ready _ a).trans hr) (busAccess_withBank b { s with inputs := rest } a)
    | wait =>
      rw [step_wait hin, step_wait hin', pollRound_eq, pollRound_eq]
      exact next_sameButBank b hr rfl
    | offer w =>
      rw [step_offer hin, step_offer hin']
      exact next_sameButBank b hr rfl
    | rst =>
      rw [step_rst hin, step_rst hin']
      exact .inl rfl

end Sys2Proof.Machine
end
